-- ==== Sys2Proof/Word.lean ====
section
/-! DEFINITION. The bit-vector types of the machine (00_scope.md R8). -/

namespace Sys2Proof

/-- A byte of memory or of the instruction stream (20_memory.md R46). -/
abbrev Byte := BitVec 8
/-- A quadword: a general register, an address (10_state.md R17). -/
abbrev QWord := BitVec 64
/-- A 256-bit vector register, VLMAX = 256 (10_state.md R38). -/
abbrev YmmWord := BitVec 256

end Sys2Proof
end

