-- ==== Sys2Proof/Config.lean ====
section
/-! DEFINITION. What an implementation fixes (00_scope.md R7) and the free values: constants with no body, of which
nothing can be evaluated or proved, so that every theorem holds whatever they are. -/

namespace Sys2Proof

/-- The feature flags of 00_scope.md R7 (D1). They are held in State, constant over a run (log 27). -/
structure Features where
  hasIntel64 : Bool
  hasSse : Bool
  hasSse2 : Bool
  hasAvx : Bool
deriving DecidableEq, Repr

/-- `LINEAR_BITS` of 00_scope.md R7: implemented linear-address bits in 64-bit mode. PRESUMED by the spec (G19), log 29. -/
def Config.linearBits : Nat := 48

/-- Free value: the 16 undefined bits `u` of SMSW r32 outside 64-bit mode, one draw for each execution
(40_smsw.md R111, U1). Log 13. -/
opaque Config.smswUndefinedBits : Nat → BitVec 16

/-- Free value: is a pending NMI held back at the boundary right after an STI (42_flag_set.md R153, U5). Log 11. -/
opaque Config.nmiHeldAfterSti : Nat → Bool

/-- Free value: is a pending SMI held back at the boundary right after an STI (42_flag_set.md R153, U5). Log 11. -/
opaque Config.smiHeldAfterSti : Nat → Bool

/-- Free value: which of several recognisable events is taken (60_exceptions.md R197: the order is not fixed). Log 10. -/
opaque Config.eventChoice : Nat → Nat

/-- Free value: does SQRT64 of a negative denormal with DAZ = 0 raise D beside I (41_sqrt.md R125, U12); a function of
the input and RC only, as R122 asks. Log 16. -/
opaque Config.negDenormalRaisesD64 : BitVec 64 → BitVec 2 → Bool

/-- Free value: the same for SQRT32 (41_sqrt.md R125, U12). Log 16. -/
opaque Config.negDenormalRaisesD32 : BitVec 32 → BitVec 2 → Bool

/-- Free value: the six MXCSR exception flags in a state faulted by a numeric condition (41_sqrt.md R126, U13). Log 17. -/
opaque Config.mxcsrFlagsOnFault : Nat → BitVec 6

/-- Free value: is a read through an SS that is not readable, of which the pages of the square roots do not say more,
#SS(0) (60_exceptions.md R185) or #GP(0) (20_memory.md R60). Log 40. -/
opaque Config.rightsThroughSsRaiseSs : Nat → Bool

end Sys2Proof
end

