-- ==== Sys2Proof/Syntax.lean ====
section
/-! DEFINITION. The instructions: one constructor for each row of spec/opcode_table.json, with everything their
encoding carries (30_encoding.md R72 to R99). Prefix order is the one thing of an encoding that an `Instr` forgets. -/

namespace Sys2Proof

/-- The six segment registers (10_state.md R35). -/
inductive SegName | es | cs | ss | ds | fs | gs
deriving DecidableEq, Repr

/-- F2 and F3 (30_encoding.md R79). -/
inductive Rep | repne | rep
deriving DecidableEq, Repr

/-- Operand-size attribute (30_encoding.md R88). -/
inductive OpSize | o16 | o32 | o64
deriving DecidableEq, Repr

/-- Address-size attribute (30_encoding.md R89). -/
inductive AddrSize | a16 | a32 | a64
deriving DecidableEq, Repr

/-- What of the mode the decoder reads (30_encoding.md R80, R88, R89): 64-bit mode, and whether the default size of
the code segment is 32 bits (else 16). In real-address and virtual-8086 mode it is 16: for the operand size by R88, for
the address size with CS.D = 1 by the model's choice (log 42). -/
structure CodeCtx where
  m64 : Bool
  d32 : Bool
deriving DecidableEq, Repr

/-- The four bits of a REX byte (30_encoding.md R80). -/
structure Rex where
  w : Bool
  r : Bool
  x : Bool
  b : Bool
deriving DecidableEq, Repr

/-- The prefixes of a non-VEX instruction but for F2 and F3, which only SQRTSD and SQRTSS have (30_encoding.md R73,
R79): LOCK, segment override, 66 (the mandatory prefix of SQRTPD included), 67, REX. -/
structure Pfx where
  lock : Bool
  seg : Option SegName
  opsz : Bool
  adsz : Bool
  rex : Option Rex
deriving DecidableEq, Repr

/-- The VEX prefix with the two legacy prefixes that may precede it (30_encoding.md R90, R92). `three`: the C4 form.
R, X, B and vvvv are kept with the inversion undone, so `vvvv = 0` is the stored 1111b. mmmmm is 00001 in every form
in scope and pp belongs to the constructor. -/
structure Vex where
  seg : Option SegName
  adsz : Bool
  three : Bool
  r : Bool
  x : Bool
  b : Bool
  w : Bool
  vvvv : BitVec 4
  l : Bool
deriving DecidableEq, Repr

/-- The displacement that follows a base (30_encoding.md R87): none (mod 00), 8 bits (mod 01), or the full one of
`w` bits (mod 10). -/
inductive Disp (w : Nat) where
  | none
  | d8 (v : BitVec 8)
  | full (v : BitVec w)
deriving DecidableEq, Repr

/-- A ModR/M memory operand as encoded (30_encoding.md R84 to R86). -/
inductive MemForm where
  /-- Address size 16, a base/index row of R84. -/
  | mem16 (rm : BitVec 3) (d : Disp 16)
  /-- Address size 16, mod 00, r/m 110: the displacement alone. -/
  | mem16Abs (d : BitVec 16)
  /-- Address size 32 or 64: a base register (R85). -/
  | memBase (rm : BitVec 3) (d : Disp 32)
  /-- Address size 32 or 64, mod 00, r/m 101: disp32 outside 64-bit mode, RIP-relative in it (R85). -/
  | memDisp (d : BitVec 32)
  /-- A SIB byte with a base (R86). -/
  | memSib (scale : BitVec 2) (index base : BitVec 3) (d : Disp 32)
  /-- A SIB byte with base 101 and mod 00: no base, disp32 (R86). -/
  | memSibNoBase (scale : BitVec 2) (index : BitVec 3) (d : BitVec 32)
deriving DecidableEq, Repr

/-- The ModR/M `r/m` operand (30_encoding.md R83): a register (mod 11) or memory. -/
inductive RM where
  | reg (n : BitVec 3)
  | mem (m : MemForm)
deriving DecidableEq, Repr

/-- The instructions: the 27 rows of spec/opcode_table.json in the table's order (30_encoding.md R94). -/
inductive Instr where
  /-- SMSW r/m16 (R109). -/
  | smswRm16 (p : Pfx) (rm : RM)
  /-- SMSW r32/m16 (R110). -/
  | smswR32M16 (p : Pfx) (rm : RM)
  /-- SMSW r64/m16 (R112). -/
  | smswR64M16 (p : Pfx) (rm : RM)
  /-- SQRTPD xmm1, xmm2/m128 (R129). -/
  | sqrtpd (p : Pfx) (reg : BitVec 3) (rm : RM)
  /-- VSQRTPD xmm1, xmm2/m128 (R130). -/
  | vsqrtpdXmm (v : Vex) (reg : BitVec 3) (rm : RM)
  /-- VSQRTPD ymm1, ymm2/m256 (R131). -/
  | vsqrtpdYmm (v : Vex) (reg : BitVec 3) (rm : RM)
  /-- SQRTPS xmm1, xmm2/m128 (R132). -/
  | sqrtps (p : Pfx) (reg : BitVec 3) (rm : RM)
  /-- VSQRTPS xmm1, xmm2/m128 (R133). -/
  | vsqrtpsXmm (v : Vex) (reg : BitVec 3) (rm : RM)
  /-- VSQRTPS ymm1, ymm2/m256 (R134). -/
  | vsqrtpsYmm (v : Vex) (reg : BitVec 3) (rm : RM)
  /-- SQRTSD xmm1, xmm2/m64 (R135). -/
  | sqrtsd (p : Pfx) (reg : BitVec 3) (rm : RM)
  /-- VSQRTSD xmm1, xmm2, xmm3/m64 (R136). -/
  | vsqrtsd (v : Vex) (reg : BitVec 3) (rm : RM)
  /-- SQRTSS xmm1, xmm2/m32 (R137). -/
  | sqrtss (p : Pfx) (reg : BitVec 3) (rm : RM)
  /-- VSQRTSS xmm1, xmm2, xmm3/m32 (R138). -/
  | vsqrtss (v : Vex) (reg : BitVec 3) (rm : RM)
  /-- STC (R142). -/
  | stc (p : Pfx)
  /-- STD (R143). -/
  | std (p : Pfx)
  /-- STI (R145). -/
  | sti (p : Pfx)
  /-- STMXCSR m32 (R155). -/
  | stmxcsr (p : Pfx) (m : MemForm)
  /-- VSTMXCSR m32 (R156). -/
  | vstmxcsr (v : Vex) (m : MemForm)
  /-- STOS m8 (R166). -/
  | stosM8 (p : Pfx)
  /-- STOS m16 (R167). -/
  | stosM16 (p : Pfx)
  /-- STOS m32 (R168). -/
  | stosM32 (p : Pfx)
  /-- STOS m64 (R169). -/
  | stosM64 (p : Pfx)
  /-- STOSB: the bytes of STOS m8 (R107, R166). -/
  | stosb (p : Pfx)
  /-- STOSW: the bytes of STOS m16 (R107, R167). -/
  | stosw (p : Pfx)
  /-- STOSD: the bytes of STOS m32 (R107, R168). -/
  | stosd (p : Pfx)
  /-- STOSQ: the bytes of STOS m64 (R107, R169). -/
  | stosq (p : Pfx)
  /-- STR r/m16 (R175). -/
  | str (p : Pfx) (rm : RM)
deriving DecidableEq, Repr

end Sys2Proof
end

