-- ==== Sys2Proof/Decode.lean ====
section
/-! DEFINITION. The decoder of 30_encoding.md R100, total on any bytes, and the encoder of the same tables. -/

namespace Sys2Proof

/-! ## Byte order -/

/-- The `n` bytes of a value, least significant first (20_memory.md R49). -/
def leBytes {w : Nat} (n : Nat) (v : BitVec w) : List Byte :=
  (List.range n).map fun k => v.extractLsb' (8 * k) 8

/-- The number that little-endian bytes stand for (20_memory.md R49). -/
def leNat : List Byte → Nat
  | [] => 0
  | b :: r => b.toNat + 256 * leNat r

/-- Little-endian bytes read as a value of `w` bits (20_memory.md R50). -/
def leValue (w : Nat) (bs : List Byte) : BitVec w := BitVec.ofNat w (leNat bs)

/-! ## Sizes -/

/-- Operand-size attribute (30_encoding.md R88): REX.W wins over 66; outside 64-bit mode 66 switches the default. -/
def operandSize (c : CodeCtx) (opsz rexW : Bool) : OpSize :=
  if c.m64 then (if rexW then .o64 else if opsz then .o16 else .o32)
  else if xor c.d32 opsz then .o32 else .o16

/-- Address-size attribute (30_encoding.md R89; its default in real-address and virtual-8086 mode with CS.D = 1: log 42). -/
def addrSize (c : CodeCtx) (adsz : Bool) : AddrSize :=
  if c.m64 then (if adsz then .a32 else .a64)
  else if xor c.d32 adsz then .a32 else .a16

/-- REX.W, 0 when there is no REX byte (30_encoding.md R82). -/
def Pfx.w (p : Pfx) : Bool := match p.rex with | some r => r.w | none => false
/-- REX.R (30_encoding.md R82). -/
def Pfx.r (p : Pfx) : Bool := match p.rex with | some r => r.r | none => false
/-- REX.X (30_encoding.md R82). -/
def Pfx.x (p : Pfx) : Bool := match p.rex with | some r => r.x | none => false
/-- REX.B (30_encoding.md R82). -/
def Pfx.b (p : Pfx) : Bool := match p.rex with | some r => r.b | none => false

/-! ## Results -/

/-- Why the decoder gives bytes no meaning. Every one is safe: the model proves nothing about such bytes (R104). -/
inductive DecodeRefusal where
  /-- Two legacy prefixes of one group (R74, D15). -/
  | repeatedPrefix
  /-- A REX byte followed by a legacy prefix (R81, D15). -/
  | rexNotLast
  /-- F2 or F3 before STOS: REP and REPNE are out of scope (R79, R172, D14). -/
  | repeatedString
  /-- 66, F2 or F3 where the row allows none, or more than one of them before 0F 51 (R79, R103, D16). -/
  | prefixNotInScope
  /-- 0F AE /3 or VEX AE /3 with mod 11: there is no register form (R103, R157, D17). -/
  | noRegisterForm
  /-- Any other bytes outside the 27 rows (R104, D16). -/
  | outOfScope
deriving DecidableEq, Repr

/-- What the bytes at the program counter are (30_encoding.md R100). -/
inductive DecodeResult where
  /-- An instruction, and the bytes after it. -/
  | ok (i : Instr) (rest : List Byte)
  /-- The bytes raise #UD whatever follows them (R92, R101). -/
  | ud
  /-- The bytes have no meaning in this spec (R104). -/
  | refused (why : DecodeRefusal)
  /-- The bytes end before the instruction does. -/
  | truncated
deriving DecidableEq, Repr

/-! ## Legacy prefixes (R73, R74) -/

/-- The legacy prefixes read so far. Group 1 holds F0, F2 and F3. -/
structure Scan where
  lock : Bool
  rep : Option Rep
  seg : Option SegName
  opsz : Bool
  adsz : Bool
deriving DecidableEq, Repr

/-- No prefix read yet. -/
def Scan.empty : Scan := ⟨false, none, none, false, false⟩

/-- What one more byte does to the scan: it is no legacy prefix; its group has one already; it is taken. -/
inductive PrefixStep where
  | notPrefix
  | repeated
  | taken (s : Scan)
deriving DecidableEq, Repr

/-- The segment-override bytes (30_encoding.md R76). -/
def segOfByte (b : Byte) : Option SegName :=
  if b = 0x26 then some .es else if b = 0x2E then some .cs else if b = 0x36 then some .ss
  else if b = 0x3E then some .ds else if b = 0x64 then some .fs else if b = 0x65 then some .gs else none

/-- One legacy prefix, at most one of each group, in any order (30_encoding.md R73, R74). -/
def prefixStep (s : Scan) (b : Byte) : PrefixStep :=
  if b = 0xF0 then (if s.lock || s.rep.isSome then .repeated else .taken { s with lock := true })
  else if b = 0xF2 then (if s.lock || s.rep.isSome then .repeated else .taken { s with rep := some .repne })
  else if b = 0xF3 then (if s.lock || s.rep.isSome then .repeated else .taken { s with rep := some .rep })
  else if b = 0x66 then (if s.opsz then .repeated else .taken { s with opsz := true })
  else if b = 0x67 then (if s.adsz then .repeated else .taken { s with adsz := true })
  else match segOfByte b with
    | some g => if s.seg.isSome then .repeated else .taken { s with seg := some g }
    | none => .notPrefix

/-- Is the byte a legacy prefix (30_encoding.md R73). -/
def isLegacyPrefix (b : Byte) : Bool := prefixStep Scan.empty b != .notPrefix

/-- The outcome of reading all legacy prefixes. -/
inductive ScanResult where
  | done (s : Scan) (rest : List Byte)
  | repeated
  | truncated
deriving DecidableEq, Repr

/-- Step 1 of 30_encoding.md R100. -/
def scanPrefixes (s : Scan) : List Byte → ScanResult
  | [] => .truncated
  | b :: r => match prefixStep s b with
    | .notPrefix => .done s (b :: r)
    | .repeated => .repeated
    | .taken s' => scanPrefixes s' r

/-! ## ModR/M, SIB, displacement (R83 to R87) -/

/-- The first `n` bytes as a little-endian value of `w` bits, and the rest; none when there are too few. -/
def takeLe (w n : Nat) (bs : List Byte) : Option (BitVec w × List Byte) :=
  if bs.length < n then none else some (leValue w (bs.take n), bs.drop n)

/-- The displacement that `mod` asks for (30_encoding.md R87). -/
def takeDisp (w n : Nat) (mod : BitVec 2) (bs : List Byte) : Option (Disp w × List Byte) :=
  if mod = 0 then some (.none, bs)
  else if mod = 1 then (takeLe 8 1 bs).map fun (v, r) => (.d8 v, r)
  else (takeLe w n bs).map fun (v, r) => (.full v, r)

/-- Memory operand with address size 16 (30_encoding.md R84). -/
def takeMem16 (mod : BitVec 2) (rm : BitVec 3) (bs : List Byte) : Option (MemForm × List Byte) :=
  if mod = 0 ∧ rm = 6 then (takeLe 16 2 bs).map fun (v, r) => (.mem16Abs v, r)
  else (takeDisp 16 2 mod bs).map fun (d, r) => (.mem16 rm d, r)

/-- The SIB byte and its displacement (30_encoding.md R86). -/
def takeSib (mod : BitVec 2) : List Byte → Option (MemForm × List Byte)
  | [] => none
  | sib :: bs =>
    let scale : BitVec 2 := sib.extractLsb' 6 2
    let index : BitVec 3 := sib.extractLsb' 3 3
    let base : BitVec 3 := sib.extractLsb' 0 3
    if mod = 0 ∧ base = 5 then (takeLe 32 4 bs).map fun (v, r) => (.memSibNoBase scale index v, r)
    else (takeDisp 32 4 mod bs).map fun (d, r) => (.memSib scale index base d, r)

/-- Memory operand with address size 32 or 64 (30_encoding.md R85). -/
def takeMem32 (mod : BitVec 2) (rm : BitVec 3) (bs : List Byte) : Option (MemForm × List Byte) :=
  if rm = 4 then takeSib mod bs
  else if mod = 0 ∧ rm = 5 then (takeLe 32 4 bs).map fun (v, r) => (.memDisp v, r)
  else (takeDisp 32 4 mod bs).map fun (d, r) => (.memBase rm d, r)

/-- The three fields of a ModR/M byte (30_encoding.md R83). -/
structure ModRM where
  mod : BitVec 2
  reg : BitVec 3
  rm : BitVec 3
deriving DecidableEq, Repr

/-- The fields of a ModR/M byte (30_encoding.md R83). -/
def modRMOfByte (b : Byte) : ModRM := ⟨b.extractLsb' 6 2, b.extractLsb' 3 3, b.extractLsb' 0 3⟩

/-- The `r/m` operand: the SIB byte and the displacement that follow the ModR/M byte (30_encoding.md R84 to R87). -/
def takeRM (a : AddrSize) (f : ModRM) (bs : List Byte) : Option (RM × List Byte) :=
  if f.mod = 3 then some (.reg f.rm, bs)
  else (if a = .a16 then takeMem16 f.mod f.rm bs else takeMem32 f.mod f.rm bs).map fun (m, r) => (.mem m, r)

/-- A form with a ModR/M byte: its fields are held against the form's conditions (`stop`, steps 3 and 4 of
30_encoding.md R100) before SIB and displacement are read (step 5); then `row` makes the instruction. -/
def withModRM (a : AddrSize) (stop : ModRM → Option DecodeResult) (row : BitVec 3 → RM → List Byte → DecodeResult) :
    List Byte → DecodeResult
  | [] => .truncated
  | b :: bs => match stop (modRMOfByte b) with
    | some r => r
    | none => match takeRM a (modRMOfByte b) bs with
      | none => .truncated
      | some (rm, rest) => row (modRMOfByte b).reg rm rest

/-! ## The opcode map (R94, R100) -/

/-- Rows 1 to 3 by operand size (30_encoding.md R94). -/
def smswRow (c : CodeCtx) (p : Pfx) (rm : RM) : Instr :=
  match operandSize c p.opsz p.w with
  | .o16 => .smswRm16 p rm
  | .o32 => .smswR32M16 p rm
  | .o64 => .smswR64M16 p rm

/-- Rows 20 to 22 by operand size (30_encoding.md R94). The no-operand mnemonics of rows 23 to 26 are the same bytes
(R107); the decoder answers with the explicit-operand constructor. DESIGN CHOICE, log 25. -/
def stosRow (c : CodeCtx) (p : Pfx) : Instr :=
  match operandSize c p.opsz p.w with
  | .o16 => .stosM16 p
  | .o32 => .stosM32 p
  | .o64 => .stosM64 p

/-- 0F 51: the row by which of 66, F2, F3 is present (30_encoding.md R79, R94). -/
def sqrtRow (rep : Option Rep) (p : Pfx) (reg : BitVec 3) (rm : RM) : Instr :=
  match rep with
  | none => if p.opsz then .sqrtpd p reg rm else .sqrtps p reg rm
  | some .repne => .sqrtsd p reg rm
  | some .rep => .sqrtss p reg rm

/-- What step 4 of 30_encoding.md R100 refuses of 0F `op` by the fields of its ModR/M byte and by its prefixes, in the
order written there. -/
def twoByteStop (rep : Option Rep) (p : Pfx) (op : Byte) (f : ModRM) : Option DecodeResult :=
  if op = 0x51 then none
  else if op = 0x00 then
    if f.reg ≠ 1 then some (.refused .outOfScope)
    else if rep.isSome then some (.refused .prefixNotInScope)
    else none
  else if op = 0x01 then
    if f.reg ≠ 4 then some (.refused .outOfScope)
    else if rep.isSome then some (.refused .prefixNotInScope)
    else none
  else
    if f.reg ≠ 3 then some (.refused .outOfScope)
    else if f.mod = 3 then some (.refused .noRegisterForm)
    else if p.opsz || rep.isSome then some (.refused .prefixNotInScope)
    else none

/-- The row of 0F `op` (step 4 of 30_encoding.md R100); `twoByteStop` has refused a register operand of 0F AE. -/
def twoByteRow (c : CodeCtx) (rep : Option Rep) (p : Pfx) (op : Byte) (reg : BitVec 3) (rm : RM)
    (rest : List Byte) : DecodeResult :=
  if op = 0x51 then .ok (sqrtRow rep p reg rm) rest
  else if op = 0x00 then .ok (.str p rm) rest
  else if op = 0x01 then .ok (smswRow c p rm) rest
  else match rm with
    | .reg _ => .refused .noRegisterForm
    | .mem m => .ok (.stmxcsr p m) rest

/-- The second byte of a two-byte opcode (step 4 of 30_encoding.md R100); two of 66, F2, F3 before 0F 51 are refused
before its ModR/M byte is read. -/
def decodeTwoByte (c : CodeCtx) (rep : Option Rep) (p : Pfx) : List Byte → DecodeResult
  | [] => .truncated
  | op :: bs =>
    if op = 0x51 ∧ p.opsz = true ∧ rep.isSome = true then .refused .prefixNotInScope
    else if op = 0x00 ∨ op = 0x01 ∨ op = 0x51 ∨ op = 0xAE then
      withModRM (addrSize c p.adsz) (twoByteStop rep p op) (twoByteRow c rep p op) bs
    else .refused .outOfScope

/-- Step 4 of 30_encoding.md R100. LOCK stays in the instruction, whose meaning raises #UD (step 6, R75). -/
def decodeOpcode (c : CodeCtx) (s : Scan) (rex : Option Rex) (op : Byte) (bs : List Byte) : DecodeResult :=
  let p : Pfx := ⟨s.lock, s.seg, s.opsz, s.adsz, rex⟩
  if op = 0x0F then decodeTwoByte c s.rep p bs
  else if op = 0xF9 ∨ op = 0xFD ∨ op = 0xFB then
    if s.rep.isSome then .refused .prefixNotInScope
    else .ok (if op = 0xF9 then .stc p else if op = 0xFD then .std p else .sti p) bs
  else if op = 0xAA ∨ op = 0xAB then
    if s.rep.isSome then .refused .repeatedString
    else .ok (if op = 0xAA then .stosM8 p else stosRow c p) bs
  else .refused .outOfScope

/-! ## VEX (R90 to R93) -/

/-- VEX 51: the row by L and pp (30_encoding.md R93, R94). L is ignored by the scalar rows. -/
def vexSqrtRow (v : Vex) (pp : BitVec 2) (reg : BitVec 3) (rm : RM) : Instr :=
  if pp = 1 then (if v.l then .vsqrtpdYmm v reg rm else .vsqrtpdXmm v reg rm)
  else if pp = 0 then (if v.l then .vsqrtpsYmm v reg rm else .vsqrtpsXmm v reg rm)
  else if pp = 3 then .vsqrtsd v reg rm
  else .vsqrtss v reg rm

/-- What step 3 of 30_encoding.md R100 says of VEX AE by the fields of its ModR/M byte: a refusal, then the #UD of a
reserved L or vvvv (R101), in the order written there. -/
def vexStoreStop (v : Vex) (pp : BitVec 2) (f : ModRM) : Option DecodeResult :=
  if f.reg ≠ 3 then some (.refused .outOfScope)
  else if f.mod = 3 then some (.refused .noRegisterForm)
  else if pp ≠ 0 then some (.refused .prefixNotInScope)
  else if v.l || v.vvvv != 0 then some .ud
  else none

/-- The row of VEX AE; `vexStoreStop` has refused a register operand. -/
def vexStoreRow (v : Vex) (_reg : BitVec 3) (rm : RM) (rest : List Byte) : DecodeResult :=
  match rm with
  | .reg _ => .refused .noRegisterForm
  | .mem m => .ok (.vstmxcsr v m) rest

/-- The opcode byte after a VEX prefix of the 0F map (step 3 of 30_encoding.md R100): a reserved vvvv of VSQRTPD and
VSQRTPS is #UD (R101) before the ModR/M byte is read. -/
def decodeVexOpcode (c : CodeCtx) (v : Vex) (pp : BitVec 2) : List Byte → DecodeResult
  | [] => .truncated
  | op :: bs =>
    if op = 0x51 then
      if (pp = 0 ∨ pp = 1) ∧ v.vvvv ≠ 0 then .ud
      else withModRM (addrSize c v.adsz) (fun _ => none) (fun reg rm rest => .ok (vexSqrtRow v pp reg rm) rest) bs
    else if op = 0xAE then withModRM (addrSize c v.adsz) (vexStoreStop v pp) (vexStoreRow v) bs
    else .refused .outOfScope

/-- The two-byte VEX form: X, B, W are 0 and the map is 0F (30_encoding.md R90). -/
def decodeVex2 (c : CodeCtx) (s : Scan) : List Byte → DecodeResult
  | [] => .truncated
  | b1 :: bs =>
    decodeVexOpcode c ⟨s.seg, s.adsz, false, !b1.getLsbD 7, false, false, false, ~~~(b1.extractLsb' 3 4), b1.getLsbD 2⟩
      (b1.extractLsb' 0 2) bs

/-- The three-byte VEX form (30_encoding.md R90); only the 0F map holds an instruction in scope (R103). -/
def decodeVex3 (c : CodeCtx) (s : Scan) : List Byte → DecodeResult
  | b1 :: b2 :: bs =>
    if b1.extractLsb' 0 5 ≠ 1 then .refused .outOfScope
    else
      decodeVexOpcode c
        ⟨s.seg, s.adsz, true, !b1.getLsbD 7, !b1.getLsbD 6, !b1.getLsbD 5, b2.getLsbD 7, ~~~(b2.extractLsb' 3 4),
          b2.getLsbD 2⟩
        (b2.extractLsb' 0 2) bs
  | _ => .truncated

/-- Step 3 of 30_encoding.md R100 after C4 (`three`) or C5. -/
def decodeVex (c : CodeCtx) (s : Scan) (three : Bool) (bs : List Byte) : DecodeResult :=
  if s.lock || s.rep.isSome || s.opsz then .ud
  else if three then decodeVex3 c s bs else decodeVex2 c s bs

/-! ## The decoder (R100) -/

/-- The REX bits of a byte 40 to 4F (30_encoding.md R80). -/
def rexOfByte (b : Byte) : Rex := ⟨b.getLsbD 3, b.getLsbD 2, b.getLsbD 1, b.getLsbD 0⟩

/-- Step 2 of 30_encoding.md R100, after a REX byte. -/
def decodeAfterRex (c : CodeCtx) (s : Scan) (rex : Rex) : List Byte → DecodeResult
  | [] => .truncated
  | b :: bs =>
    if isLegacyPrefix b then .refused .rexNotLast
    else if b = 0xC4 ∨ b = 0xC5 then .ud
    else decodeOpcode c s (some rex) b bs

/-- Steps 2 to 4 of 30_encoding.md R100: REX in 64-bit mode, VEX (told from LES and LDS by R91), or an opcode. -/
def decodeAfterPrefixes (c : CodeCtx) (s : Scan) : List Byte → DecodeResult
  | [] => .truncated
  | b :: bs =>
    if c.m64 = true ∧ b.extractLsb' 4 4 = 4 then decodeAfterRex c s (rexOfByte b) bs
    else if b = 0xC4 ∨ b = 0xC5 then
      if c.m64 then decodeVex c s (b = 0xC4) bs
      else match bs with
        | [] => .truncated
        | b1 :: _ => if b1.extractLsb' 6 2 = 3 then decodeVex c s (b = 0xC4) bs else .refused .outOfScope
    else decodeOpcode c s none b bs

/-- The decoder (30_encoding.md R100). -/
def decode (c : CodeCtx) (bs : List Byte) : DecodeResult :=
  match scanPrefixes Scan.empty bs with
  | .truncated => .truncated
  | .repeated => .refused .repeatedPrefix
  | .done s rest => decodeAfterPrefixes c s rest

/-! ## The encoder -/

/-- The segment-override byte (30_encoding.md R76). -/
def segByte : SegName → Byte
  | .es => 0x26
  | .cs => 0x2E
  | .ss => 0x36
  | .ds => 0x3E
  | .fs => 0x64
  | .gs => 0x65

/-- One byte when the condition holds. -/
def optByte (c : Bool) (b : Byte) : List Byte := if c then [b] else []

/-- The segment override, if there is one. -/
def encodeSeg : Option SegName → List Byte
  | none => []
  | some g => [segByte g]

/-- A group-1 prefix F2 or F3, if there is one. -/
def encodeRep : Option Rep → List Byte
  | none => []
  | some .repne => [0xF2]
  | some .rep => [0xF3]

/-- The REX byte 0100WRXB (30_encoding.md R80). -/
def encodeRex : Option Rex → List Byte
  | none => []
  | some r => [0x4#4 ++ BitVec.ofBool r.w ++ BitVec.ofBool r.r ++ BitVec.ofBool r.x ++ BitVec.ofBool r.b]

/-- The prefixes of a non-VEX instruction, in the order LOCK, F2 or F3, segment, 66, 67, REX (30_encoding.md R72). -/
def encodePfx (rep : Option Rep) (p : Pfx) : List Byte :=
  optByte p.lock 0xF0 ++ (encodeRep rep ++ (encodeSeg p.seg ++ (optByte p.opsz 0x66 ++ (optByte p.adsz 0x67 ++
    encodeRex p.rex))))

/-- The VEX prefix with the legacy prefixes before it (30_encoding.md R90, R92). -/
def encodeVex (v : Vex) (pp : BitVec 2) : List Byte :=
  encodeSeg v.seg ++ (optByte v.adsz 0x67 ++
    (if v.three then
      [0xC4, BitVec.ofBool (!v.r) ++ BitVec.ofBool (!v.x) ++ BitVec.ofBool (!v.b) ++ 0x01#5,
        BitVec.ofBool v.w ++ ~~~v.vvvv ++ BitVec.ofBool v.l ++ pp]
    else [0xC5, BitVec.ofBool (!v.r) ++ ~~~v.vvvv ++ BitVec.ofBool v.l ++ pp]))

/-- The `mod` field of a displacement (30_encoding.md R87). -/
def dispMod {w : Nat} : Disp w → BitVec 2
  | .none => 0
  | .d8 _ => 1
  | .full _ => 2

/-- The bytes of a displacement, the full one of `n` bytes (30_encoding.md R87). -/
def encodeDisp {w : Nat} (n : Nat) : Disp w → List Byte
  | .none => []
  | .d8 v => leBytes 1 v
  | .full v => leBytes n v

/-- A ModR/M byte, and a SIB byte, from its three fields (30_encoding.md R83, R86). -/
def byteOfFields (hi : BitVec 2) (mid lo : BitVec 3) : Byte := hi ++ mid ++ lo

/-- The ModR/M byte and what follows it (30_encoding.md R83 to R87). -/
def encodeRM (reg : BitVec 3) : RM → List Byte
  | .reg n => [byteOfFields 3 reg n]
  | .mem (.mem16 rm d) => byteOfFields (dispMod d) reg rm :: encodeDisp 2 d
  | .mem (.mem16Abs d) => byteOfFields 0 reg 6 :: leBytes 2 d
  | .mem (.memBase rm d) => byteOfFields (dispMod d) reg rm :: encodeDisp 4 d
  | .mem (.memDisp d) => byteOfFields 0 reg 5 :: leBytes 4 d
  | .mem (.memSib sc ix bs d) => byteOfFields (dispMod d) reg 4 :: byteOfFields sc ix bs :: encodeDisp 4 d
  | .mem (.memSibNoBase sc ix d) => byteOfFields 0 reg 4 :: byteOfFields sc ix 5 :: leBytes 4 d

/-- A non-VEX instruction: prefixes, opcode bytes, the rest (30_encoding.md R72). -/
def encodeLegacy (rep : Option Rep) (p : Pfx) (op tail : List Byte) : List Byte := encodePfx rep p ++ (op ++ tail)

/-- The words of an instruction (30_encoding.md R72, R94). -/
def encode : Instr → List Byte
  | .smswRm16 p rm => encodeLegacy none p [0x0F, 0x01] (encodeRM 4 rm)
  | .smswR32M16 p rm => encodeLegacy none p [0x0F, 0x01] (encodeRM 4 rm)
  | .smswR64M16 p rm => encodeLegacy none p [0x0F, 0x01] (encodeRM 4 rm)
  | .sqrtpd p reg rm => encodeLegacy none p [0x0F, 0x51] (encodeRM reg rm)
  | .vsqrtpdXmm v reg rm => encodeVex v 1 ++ (0x51 :: encodeRM reg rm)
  | .vsqrtpdYmm v reg rm => encodeVex v 1 ++ (0x51 :: encodeRM reg rm)
  | .sqrtps p reg rm => encodeLegacy none p [0x0F, 0x51] (encodeRM reg rm)
  | .vsqrtpsXmm v reg rm => encodeVex v 0 ++ (0x51 :: encodeRM reg rm)
  | .vsqrtpsYmm v reg rm => encodeVex v 0 ++ (0x51 :: encodeRM reg rm)
  | .sqrtsd p reg rm => encodeLegacy (some .repne) p [0x0F, 0x51] (encodeRM reg rm)
  | .vsqrtsd v reg rm => encodeVex v 3 ++ (0x51 :: encodeRM reg rm)
  | .sqrtss p reg rm => encodeLegacy (some .rep) p [0x0F, 0x51] (encodeRM reg rm)
  | .vsqrtss v reg rm => encodeVex v 2 ++ (0x51 :: encodeRM reg rm)
  | .stc p => encodeLegacy none p [0xF9] []
  | .std p => encodeLegacy none p [0xFD] []
  | .sti p => encodeLegacy none p [0xFB] []
  | .stmxcsr p m => encodeLegacy none p [0x0F, 0xAE] (encodeRM 3 (.mem m))
  | .vstmxcsr v m => encodeVex v 0 ++ (0xAE :: encodeRM 3 (.mem m))
  | .stosM8 p => encodeLegacy none p [0xAA] []
  | .stosM16 p => encodeLegacy none p [0xAB] []
  | .stosM32 p => encodeLegacy none p [0xAB] []
  | .stosM64 p => encodeLegacy none p [0xAB] []
  | .stosb p => encodeLegacy none p [0xAA] []
  | .stosw p => encodeLegacy none p [0xAB] []
  | .stosd p => encodeLegacy none p [0xAB] []
  | .stosq p => encodeLegacy none p [0xAB] []
  | .str p rm => encodeLegacy none p [0x0F, 0x00] (encodeRM 1 rm)

/-- `ilen`: the number of bytes of the instruction, prefixes included (30_encoding.md R72). -/
def instrLen (i : Instr) : Nat := (encode i).length

/-- The constructor the decoder answers with for the same bytes: the no-operand mnemonics of STOS are another name of
the explicit forms (30_encoding.md R107, 44_stos.md R170). -/
def Instr.canonical : Instr → Instr
  | .stosb p => .stosM8 p
  | .stosw p => .stosM16 p
  | .stosd p => .stosM32 p
  | .stosq p => .stosM64 p
  | i => i

/-! ## The table's words -/

/-- The longest instruction the processor takes (30_encoding.md R72). -/
def maxInstrLen : Nat := 15

/-- The bytes of a table word in stream order, zeros above its `nbits` bits (30_encoding.md R94). -/
def tableBytes (nbits w : Nat) : List Byte :=
  (List.range maxInstrLen).map fun k => BitVec.ofNat 8 ((w % 2 ^ nbits) / 2 ^ (8 * k))

/-- What the decoder is in after reset: real-address mode, 16-bit defaults (10_state.md R43, 30_encoding.md R88). -/
def CodeCtx.atReset : CodeCtx := ⟨false, false⟩

/-- The instruction the decoder reads from a table word, in the mode the machine is in after reset. A row whose
mandatory prefix, REX or VEX prefix the table gives no bits for cannot be read from its word (log 25). -/
def decodeTableWord (nbits w : Nat) : Option Instr :=
  match decode CodeCtx.atReset (tableBytes nbits w) with
  | .ok i _ => some i
  | _ => none

end Sys2Proof
end

