-- ==== Sys2Proof/Machine/State.lean ====
section
/-! DEFINITION. The state of the machine (10_state.md R45 and the reset table R43), the ways a step can stop, and reset. -/

namespace Sys2Proof.Machine

/-- A segment register, or TR or LDTR: the visible selector and the hidden base, limit and access rights
(10_state.md R34, R35). `l` and `d` are CS.L and CS.D. In real-address and virtual-8086 mode the base is computed
(`segBase` of Ops.lean). -/
structure Seg where
  sel : BitVec 16
  base : BitVec 64
  limit : BitVec 32
  readable : Bool
  writable : Bool
  l : Bool
  d : Bool
deriving DecidableEq, Repr

/-- GDTR or IDTR (10_state.md R40, R43). -/
structure TableReg where
  base : BitVec 64
  limit : BitVec 16
deriving DecidableEq, Repr

/-- One range of the parameter `Translate` (20_memory.md R61): linear addresses `lin` to `lin + size - 1` go to the
physical addresses from `phys` on, under these rights. Log 6. -/
structure PageRange where
  lin : Nat
  size : Nat
  phys : Nat
  present : Bool
  writable : Bool
  user : Bool
deriving DecidableEq, Repr

/-- A range of allocated physical addresses of the launch memory (20_memory.md R62). Log 7. -/
structure Region where
  base : Nat
  size : Nat
deriving DecidableEq, Repr

/-- The program text of the run: `len` bytes from the linear address `base` (70_reset_and_hazards.md R216). -/
structure Text where
  base : BitVec 64
  len : Nat
deriving DecidableEq, Repr

/-- The pending-event inputs at one instruction boundary (10_state.md R42). -/
structure Pending where
  ext : Bool
  nmi : Bool
  smi : Bool
deriving DecidableEq, Repr

/-- The operating modes (10_state.md R37). -/
inductive Mode | real | v86 | prot | compat | mode64
deriving DecidableEq, Repr

/-- What an access does (20_memory.md R59, R69). -/
inductive Access | read | write | execute
deriving DecidableEq, Repr

/-- What an instruction's own rule adds to the checks of 20_memory.md R59 for its operand. -/
inductive AccessRule where
  /-- Nothing. -/
  | plain
  /-- The legacy packed square roots: the 16-byte rule (20_memory.md R53). -/
  | packed16
  /-- STR: a NULL selector in any segment used (45_str.md R180). -/
  | strStore
  /-- STMXCSR and VSTMXCSR: a NULL selector in any segment used, and #SS(0) for every failure through SS
  (43_stmxcsr.md R159). -/
  | mxcsrStore
deriving DecidableEq, Repr

/-- The machine's state. The fields up to `mem` are the spec's registers and memory (10_state.md R45, R43, R40), those
up to `inputs` its parameters and inputs held as plain data (00_scope.md R7, 20_memory.md R61, R62, R70,
10_state.md R42), the last two the model's own (logs 11, 13). -/
structure State where
  /-- General registers (R17). -/
  x : Vector (BitVec 64) 16
  /-- Instruction pointer, an offset in CS (R21). -/
  pc : BitVec 64
  /-- EFLAGS (R23). -/
  eflags : BitVec 32
  /-- Vector registers (R38). -/
  ymm : Vector (BitVec 256) 16
  /-- MXCSR (R32). -/
  mxcsr : BitVec 32
  /-- CR0 (R26). -/
  cr0 : BitVec 64
  /-- CR2, the linear address of a page fault (60_exceptions.md R182). -/
  cr2 : BitVec 64
  /-- CR3; nothing in scope reads it (R40). -/
  cr3 : BitVec 64
  /-- CR4 (R30). -/
  cr4 : BitVec 64
  /-- XCR0 (R31). -/
  xcr0 : BitVec 64
  /-- IA32_EFER, of which LMA is bit 10 (R31). -/
  efer : BitVec 64
  /-- Segment registers (R35). -/
  cs : Seg
  ss : Seg
  ds : Seg
  es : Seg
  fs : Seg
  gs : Seg
  /-- Task register (R34). -/
  tr : Seg
  /-- LDTR; nothing in scope reads it (R40). -/
  ldtr : Seg
  /-- GDTR; nothing in scope reads it (R40). -/
  gdtr : TableReg
  /-- IDTR; nothing in scope reads it (R40). -/
  idtr : TableReg
  /-- Current privilege level (R36). -/
  cpl : BitVec 2
  /-- `sti_shadow` (R41). -/
  stiShadow : Bool
  /-- Memory by physical address, in canonical form (`Memory.wf`); an address not listed reads 00 (log 4). -/
  mem : List Host.Cell
  /-- The launch memory's allocated addresses (20_memory.md R62). -/
  alloc : List Region
  /-- The parameter `Translate` (20_memory.md R61). -/
  pages : List PageRange
  /-- The feature flags (00_scope.md R7). -/
  features : Features
  /-- The program text (70_reset_and_hazards.md R216). -/
  text : Text
  /-- The pending-event inputs of the coming boundaries, the next one first; none is pending past the end (R42). -/
  inputs : List Pending
  /-- The model's own: the last completed instruction was an STI (42_flag_set.md R153, log 11). -/
  afterSti : Bool
  /-- The model's own: how many free values have been drawn (log 13). -/
  freeIdx : Nat
deriving DecidableEq, Repr

/-- The exceptions an instruction in scope can raise (60_exceptions.md R182). -/
inductive Exc | ud | nm | ss | gp | pf | ac | xm
deriving DecidableEq, Repr

/-- The kinds of recognised interrupt (60_exceptions.md R198). -/
inductive IntKind | external | nmi | smi
deriving DecidableEq, Repr

/-- How a run ends with a fault. -/
inductive Fault where
  /-- Raised by an instruction or its fetch: the terminal outcome `Fault(vector, error code)` of 60_exceptions.md R188,
  with the state the exception leaves (R189). Safe: the processor would go on to a handler. -/
  | exception (e : Exc) (code : Option (BitVec 32)) (left : State)
  /-- Raised at an instruction boundary where an event is recognised: the terminal outcome `Interrupted(kind)` of
  60_exceptions.md R198, with the state at the boundary. Safe: the processor would go on to a handler. -/
  | interrupted (k : IntKind) (left : State)
  /-- Raised by an access to a physical address outside the launch memory: the agent is stuck (20_memory.md R62, U15).
  Safe: no step exists. -/
  | unallocated (addr : Nat)
deriving DecidableEq, Repr

/-- Why a step has no meaning. -/
inductive Refusal where
  /-- Raised by an arm of exec whose instruction has no meaning yet. Safe. -/
  | notModelled (mnemonic : String)
  /-- Raised by the fetch: the bytes decode to none of the 27 rows (30_encoding.md R104). Safe. -/
  | decode (why : DecodeRefusal)
  /-- Raised by the step: `pc` is at the end of the program text, the run is over in a final state
  (70_reset_and_hazards.md R216). Safe. -/
  | runOver
  /-- Raised by the fetch: a byte of the instruction is outside the program text (70_reset_and_hazards.md R216). Safe. -/
  | fetchOutsideText
  /-- Raised by the fetch: a byte of the instruction is outside the limit of CS (10_state.md R22, D20). Safe. -/
  | fetchOutsideLimit
  /-- Raised by the fetch: a byte of the instruction is at a non-canonical address (10_state.md R22, D20). Safe. -/
  | fetchNonCanonical
  /-- Raised by a store: a byte of the program text would be written (20_memory.md R70, D8). Safe. -/
  | storeToText
  /-- Raised by the step: EFLAGS.TF = 1, which the model requires to be 0 (60_exceptions.md R204, D13). Safe. -/
  | singleStep
deriving DecidableEq, Repr

/-- A data segment register after reset: selector 0, base 0, limit FFFFH (10_state.md R43); its rights are the family's
(PRESUMED, log 2). Also TR and LDTR. -/
def Seg.atReset : Seg := ⟨0, 0, 0xFFFF, true, true, false, false⟩

/-- The machine right after reset (10_state.md R43). What R43 leaves open is named in logs 1, 2, 4, 7, 9, 10, 11, 13. -/
def State.reset : State where
  x := Vector.replicate 16 0
  pc := 0xFFF0
  eflags := 0x00000002
  ymm := Vector.replicate 16 0
  mxcsr := 0x00001F80
  cr0 := 0x60000010
  cr2 := 0
  cr3 := 0
  cr4 := 0
  xcr0 := 1
  efer := 0
  cs := ⟨0xF000, 0xFFFF0000, 0xFFFF, true, true, false, false⟩
  ss := Seg.atReset
  ds := Seg.atReset
  es := Seg.atReset
  fs := Seg.atReset
  gs := Seg.atReset
  tr := Seg.atReset
  ldtr := Seg.atReset
  gdtr := ⟨0, 0xFFFF⟩
  idtr := ⟨0, 0xFFFF⟩
  cpl := 0
  stiShadow := false
  mem := []
  alloc := [⟨0, 2 ^ 64⟩]
  pages := []
  features := ⟨true, true, true, true⟩
  text := ⟨0xFFFFFFF0, 0⟩
  inputs := []
  afterSti := false
  freeIdx := 0

end Sys2Proof.Machine
end

