-- ==== Sys2Proof/Machine/Ops.lean ====
section
/-! DEFINITION. The shared operations over registers and memory, and taking an exception. -/

namespace Sys2Proof.Machine

/-! ## Outcomes -/

/-- Go on with the answer; a fault or a refusal ends it. -/
def andThen {α β : Type} (o : Host.Outcome α Fault Refusal) (f : α → Host.Outcome β Fault Refusal) :
    Host.Outcome β Fault Refusal :=
  match o with
  | .next a => f a
  | .fault r => .fault r
  | .refused r => .refused r

/-! ## Fields of the control registers -/

/-- EFLAGS.CF (10_state.md R23). -/
def flagCF (s : State) : Bool := s.eflags.getLsbD 0
/-- EFLAGS.TF (10_state.md R23). -/
def flagTF (s : State) : Bool := s.eflags.getLsbD 8
/-- EFLAGS.IF (10_state.md R23). -/
def flagIF (s : State) : Bool := s.eflags.getLsbD 9
/-- EFLAGS.DF (10_state.md R23, R25). -/
def flagDF (s : State) : Bool := s.eflags.getLsbD 10
/-- EFLAGS.IOPL (10_state.md R23). -/
def flagIOPL (s : State) : BitVec 2 := s.eflags.extractLsb' 12 2
/-- EFLAGS.VM (10_state.md R23). -/
def flagVM (s : State) : Bool := s.eflags.getLsbD 17
/-- EFLAGS.AC (10_state.md R23). -/
def flagAC (s : State) : Bool := s.eflags.getLsbD 18
/-- EFLAGS.VIF (10_state.md R23). -/
def flagVIF (s : State) : Bool := s.eflags.getLsbD 19
/-- EFLAGS.VIP (10_state.md R23). -/
def flagVIP (s : State) : Bool := s.eflags.getLsbD 20
/-- CR0.PE (10_state.md R27). -/
def cr0PE (s : State) : Bool := s.cr0.getLsbD 0
/-- CR0.EM (10_state.md R27). -/
def cr0EM (s : State) : Bool := s.cr0.getLsbD 2
/-- CR0.TS (10_state.md R27). -/
def cr0TS (s : State) : Bool := s.cr0.getLsbD 3
/-- CR0.WP (10_state.md R27). -/
def cr0WP (s : State) : Bool := s.cr0.getLsbD 16
/-- CR0.AM (10_state.md R27). -/
def cr0AM (s : State) : Bool := s.cr0.getLsbD 18
/-- CR0.PG (10_state.md R27). -/
def cr0PG (s : State) : Bool := s.cr0.getLsbD 31
/-- CR4.VME (10_state.md R30). -/
def cr4VME (s : State) : Bool := s.cr4.getLsbD 0
/-- CR4.PVI (10_state.md R30). -/
def cr4PVI (s : State) : Bool := s.cr4.getLsbD 1
/-- CR4.OSFXSR (10_state.md R30). -/
def cr4OSFXSR (s : State) : Bool := s.cr4.getLsbD 9
/-- CR4.OSXMMEXCPT (10_state.md R30). -/
def cr4OSXMMEXCPT (s : State) : Bool := s.cr4.getLsbD 10
/-- CR4.OSXSAVE (10_state.md R30). -/
def cr4OSXSAVE (s : State) : Bool := s.cr4.getLsbD 18
/-- XCR0[2:1] (10_state.md R31). -/
def xcr0SseAvx (s : State) : BitVec 2 := s.xcr0.extractLsb' 1 2
/-- IA32_EFER.LMA (10_state.md R31). -/
def eferLMA (s : State) : Bool := s.efer.getLsbD 10

/-! ## Mode and privilege -/

/-- The operating mode (10_state.md R37). LMA counts only on a processor that has IA-32e mode (DEDUCED, log 22). -/
def mode (s : State) : Mode :=
  if eferLMA s && s.features.hasIntel64 then (if s.cs.l then .mode64 else .compat)
  else if !cr0PE s then .real
  else if flagVM s then .v86
  else .prot

/-- 64-bit mode (10_state.md R37). -/
def in64 (s : State) : Bool := mode s == .mode64

/-- Real-address or virtual-8086 mode, where STR and the VEX forms are not recognised (45_str.md R178, 41_sqrt.md R127). -/
def realOrV86 (s : State) : Bool := mode s == .real || mode s == .v86

/-- CPL: 0 in real-address mode, 3 in virtual-8086 mode, else the field (10_state.md R36). -/
def currentCpl (s : State) : BitVec 2 :=
  match mode s with
  | .real => 0
  | .v86 => 3
  | _ => s.cpl

/-- The default size of the code segment is 32 bits: CS.D, and never in real-address and virtual-8086 mode.
30_encoding.md R88 says so of those modes for the operand size alone; that the default address size (R89) and the width
of `pc` (10_state.md R22) are 16 bits too there when CS.D = 1 is the model's choice. DESIGN CHOICE, unsafe: log 42. -/
def default32 (s : State) : Bool := s.cs.d && !realOrV86 s

/-- What the decoder reads of the state. -/
def codeCtx (s : State) : CodeCtx := ⟨in64 s, default32 s⟩

/-! ## General registers (10_state.md R17 to R19) -/

/-- `x[i]` (10_state.md R17). -/
def readX (s : State) (i : BitVec 4) : BitVec 64 := s.x.get i.toFin

/-- `x[i] <- v`, all 64 bits (00_scope.md R11). -/
def setX (s : State) (i : BitVec 4) (v : BitVec 64) : State := { s with x := s.x.set i.toFin v }

/-- What `WriteGPR(i, size, v)` leaves in a register that held `old` (10_state.md R19): 64 bits; 32 bits, the upper
half zeroed in 64-bit mode and unchanged elsewhere; 16 bits, the rest unchanged. The low bits of `v` count. -/
def mergeGpr (m64 : Bool) (size : OpSize) (old v : BitVec 64) : BitVec 64 :=
  match size with
  | .o64 => v
  | .o32 => if m64 then (v.setWidth 32).setWidth 64 else old.extractLsb' 32 32 ++ v.setWidth 32
  | .o16 => old.extractLsb' 16 48 ++ v.setWidth 16

/-- `WriteGPR` (10_state.md R19). -/
def writeGpr (s : State) (i : BitVec 4) (size : OpSize) (v : BitVec 64) : State :=
  setX s i (mergeGpr (in64 s) size (readX s i) v)

/-! ## Vector registers (10_state.md R38) -/

/-- `YMM[i]`. -/
def readYmm (s : State) (i : BitVec 4) : BitVec 256 := s.ymm.get i.toFin

/-- `YMM[i] <- v`, all 256 bits. -/
def setYmm (s : State) (i : BitVec 4) (v : BitVec 256) : State := { s with ymm := s.ymm.set i.toFin v }

/-! ## Memory as a whole -/

/-- The byte store replaced. -/
def setMem (s : State) (m : List Host.Cell) : State := { s with mem := m }

/-! ## The program counter (10_state.md R21, R22) -/

/-- `pc + ilen` at the width of the mode: modulo 2^64 in 64-bit mode, 2^32 elsewhere, 2^16 with a 16-bit code segment
(10_state.md R22). Log 31; log 42 for the width in real-address and virtual-8086 mode with CS.D = 1. -/
def nextPc (s : State) (len : Nat) : BitVec 64 :=
  let n := s.pc + BitVec.ofNat 64 len
  if in64 s then n
  else if default32 s then (n.setWidth 32).setWidth 64
  else (n.setWidth 16).setWidth 64

/-- The end of every completed instruction: `pc` advances (00_scope.md R14) and the STI delay is over
(42_flag_set.md R152). -/
def retire (len : Nat) (s : State) : State :=
  { s with pc := nextPc s len, stiShadow := false, afterSti := false }

/-! ## Taking an exception (60_exceptions.md R182, R188, R189) -/

/-- The vector number (60_exceptions.md R182). -/
def excVector : Exc → Nat
  | .ud => 6
  | .nm => 7
  | .ss => 12
  | .gp => 13
  | .pf => 14
  | .ac => 17
  | .xm => 19

/-- Does the exception have an error code (60_exceptions.md R182). -/
def excHasCode : Exc → Bool
  | .ss | .gp | .pf | .ac => true
  | .ud | .nm | .xm => false

/-- The state an exception leaves: all as it was before the instruction, but `sti_shadow` cleared
(60_exceptions.md R189). -/
def faulted (s : State) : State := { s with stiShadow := false, afterSti := false }

/-- `raise #XX(e)` (00_scope.md R13): the terminal outcome `Fault(vector, error code)` (60_exceptions.md R188). There is
no error code in real-address mode (R182). The spec gives no handler and no return from one (R190, R191), so no such
operation stands here. Log 18. -/
def raise {α : Type} (s : State) (e : Exc) (code : BitVec 32) : Host.Outcome α Fault Refusal :=
  .fault (.exception e (if excHasCode e && mode s != .real then some code else none) (faulted s))

/-! ## Segments and linear addresses (10_state.md R35, 20_memory.md R56 to R58, R60) -/

/-- The segment register of a name. -/
def segReg (s : State) : SegName → Seg
  | .es => s.es
  | .cs => s.cs
  | .ss => s.ss
  | .ds => s.ds
  | .fs => s.fs
  | .gs => s.gs

/-- A NULL selector: index 0 in the GDT, whatever its RPL (45_str.md R181 gives the fields). PRESUMED, log 5. -/
def nullSelector (g : Seg) : Bool := g.sel.extractLsb' 2 14 == 0

/-- The segment part of `SegCheck` is off in 64-bit mode; outside it any byte past the limit is #SS or #GP
(20_memory.md R60). The last offset is the sum in the naturals, so an operand that runs past offset FFFFFFFFH is outside
every limit (DESIGN CHOICE, log 39). Log 5. -/
def limitFault (s : State) (name : SegName) (off : BitVec 64) (n : Nat) : Bool :=
  !in64 s && decide ((segReg s name).limit.toNat < off.toNat + n - 1)

/-- A NULL selector in this segment is a fault: in DS, ES, FS, GS (20_memory.md R60); for STR and the two stores of
MXCSR in any segment used (45_str.md R180, 43_stmxcsr.md R159). -/
def nullFaults (name : SegName) (rule : AccessRule) : Bool :=
  name == .ds || name == .es || name == .fs || name == .gs || rule == .strStore || rule == .mxcsrStore

/-- In protected and compatibility mode: a write to a segment not writable, a read from one not readable, a NULL
selector (20_memory.md R60). -/
def rightsFault (s : State) (name : SegName) (kind : Access) (rule : AccessRule) : Bool :=
  (mode s == .prot || mode s == .compat) &&
    ((kind == .write && !(segReg s name).writable) || (kind == .read && !(segReg s name).readable) ||
      (nullFaults name rule && nullSelector (segReg s name)))

/-- The exception of a failure of the rights: #GP (20_memory.md R60), also through SS for the writes of SMSW and STR, whose
own lists name it (40_smsw.md R115, 45_str.md R180); through SS #SS for the two stores of MXCSR (43_stmxcsr.md R159). For
a read through SS no page says which: R60 has #GP, 60_exceptions.md R185 #SS, and both are admitted, a free value
(log 40). -/
def rightsExc (s : State) (name : SegName) (kind : Access) (rule : AccessRule) : Exc :=
  if name = .ss then
    if rule = .mxcsrStore then .ss
    else if kind = .read then (if Config.rightsThroughSsRaiseSs s.freeIdx then .ss else .gp)
    else .gp
  else .gp

/-- `SegCheck(seg, off, n, kind)` (20_memory.md R60): the exception, its error code always 0. Past the limit it is #SS
through SS and #GP elsewhere; for the rights it is `rightsExc`. R60 and 60_exceptions.md R187 give no order between the two: the model asks the limit first
(DESIGN CHOICE, log 37). -/
def segCheck (s : State) (name : SegName) (off : BitVec 64) (n : Nat) (kind : Access) (rule : AccessRule) :
    Option Exc :=
  if limitFault s name off n then some (if name = .ss then .ss else .gp)
  else if rightsFault s name kind rule then some (rightsExc s name kind rule)
  else none

/-- CS still holds what reset put into it, selector F000H with base FFFF0000H, in real-address mode (10_state.md R43):
no instruction in scope loads CS. DEDUCED, log 21. -/
def csFromReset (s : State) : Bool := mode s == .real && s.cs.sel == 0xF000 && s.cs.base == 0xFFFF0000

/-- The base of a segment (10_state.md R35): in 64-bit mode that of FS and GS, 0 for the others; in real-address and
virtual-8086 mode the selector times 16 (20_memory.md R57), but for CS as reset leaves it; else the hidden base. -/
def segBase (s : State) (name : SegName) : BitVec 64 :=
  if in64 s then (if name = .fs ∨ name = .gs then (segReg s name).base else 0)
  else if realOrV86 s && !(name == .cs && csFromReset s) then (segReg s name).sel.setWidth 64 * 16
  else (segReg s name).base

/-- The linear address of `seg:off` (20_memory.md R57, R58): base plus offset, modulo 2^32 outside 64-bit mode. -/
def linearAddr (s : State) (name : SegName) (off : BitVec 64) : BitVec 64 :=
  if in64 s then segBase s name + off else ((segBase s name + off).setWidth 32).setWidth 64

/-- The address `a + k`, modulo 2^32 outside 64-bit mode (20_memory.md R50). -/
def byteAddr (s : State) (a : BitVec 64) (k : Nat) : BitVec 64 :=
  if in64 s then a + BitVec.ofNat 64 k else ((a + BitVec.ofNat 64 k).setWidth 32).setWidth 64

/-- The addresses of the `n` bytes from `a` on (20_memory.md R50). -/
def byteAddrs (s : State) (a : BitVec 64) (n : Nat) : List (BitVec 64) := (List.range n).map (byteAddr s a)

/-- Bits 63 to 47 all equal (20_memory.md R58). -/
def canonical (a : BitVec 64) : Bool := (a.setWidth Config.linearBits).signExtend 64 == a

/-! ## Alignment (20_memory.md R51 to R53) -/

/-- #AC(0) for 2, 4 and 8 bytes with AM, AC and CPL 3 (R52); #GP(0) for a legacy packed m128 that is no multiple of 16
(R53). -/
def alignFault (s : State) (a : BitVec 64) (n : Nat) (rule : AccessRule) : Option Exc :=
  if rule == .packed16 && a.toNat % 16 != 0 then some .gp
  else if (n == 2 || n == 4 || n == 8) && cr0AM s && flagAC s && currentCpl s == 3 && a.toNat % n != 0 then some .ac
  else none

/-! ## Translation (20_memory.md R61) -/

/-- The range of `pages` that holds a linear address, the first one that does. -/
def pageOf (s : State) (a : BitVec 64) : Option PageRange :=
  s.pages.find? fun r => decide (r.lin ≤ a.toNat) && decide (a.toNat < r.lin + r.size)

/-- The page-fault error code: P, W/R, U/S, I/D (60_exceptions.md R182). -/
def pageFaultCode (s : State) (kind : Access) (present : Bool) : BitVec 32 :=
  (BitVec.ofBool (kind == .execute) ++ 0#1 ++ BitVec.ofBool (currentCpl s == 3) ++ BitVec.ofBool (kind == .write) ++
    BitVec.ofBool present).setWidth 32

/-- Is the access refused by a present page: CPL 3 on a supervisor page; a write to a read-only page at CPL 3, or at
any CPL with CR0.WP (20_memory.md R61). -/
def pageDenies (s : State) (kind : Access) (r : PageRange) : Bool :=
  (currentCpl s == 3 && !r.user) || (kind == .write && !r.writable && (currentCpl s == 3 || cr0WP s))

/-- `Translate(linear, kind)` (20_memory.md R61): the identity with CR0.PG = 0 and for an address that no range of
`pages` holds (the default instantiation, D6); else the range's physical address or #PF, which records the linear
address in CR2 (60_exceptions.md R182). Log 6. CR0.PG alone decides, also in a state with CR0.PE = 0, which 10_state.md
R29 lets a model allow (DESIGN CHOICE, log 38). -/
def translate (s : State) (kind : Access) (a : BitVec 64) : Host.Outcome Nat Fault Refusal :=
  if !cr0PG s then .next a.toNat
  else match pageOf s a with
    | none => .next a.toNat
    | some r =>
      if !r.present || pageDenies s kind r then raise { s with cr2 := a } .pf (pageFaultCode s kind r.present)
      else .next (r.phys + (a.toNat - r.lin))

/-- `Translate` of every byte, in order (20_memory.md R59). -/
def translateAll (s : State) (kind : Access) : List (BitVec 64) → Host.Outcome (List Nat) Fault Refusal
  | [] => .next []
  | a :: as => andThen (translate s kind a) fun p => andThen (translateAll s kind as) fun ps => .next (p :: ps)

/-! ## The byte store (20_memory.md R46, R50, R62) -/

/-- The address is in the launch memory (20_memory.md R62). -/
def allocated (s : State) (p : Nat) : Bool :=
  s.alloc.any fun r => decide (r.base ≤ p) && decide (p < r.base + r.size)

/-- The linear address is a byte of the program text (70_reset_and_hazards.md R216). -/
def inText (s : State) (a : BitVec 64) : Bool := decide ((a - s.text.base).toNat < s.text.len)

/-- What an unlisted address reads as. DESIGN CHOICE, log 4. -/
def unlistedByte : Byte := 0

/-- One byte of the store. -/
def memRead (m : List Host.Cell) (p : Nat) : Byte :=
  match m with
  | [] => unlistedByte
  | (a, b) :: r => if a = p then b else memRead r p

/-- One byte written, the canonical form kept: addresses rising, no byte that an unlisted address reads as. -/
def memWrite (m : List Host.Cell) (p : Nat) (v : Byte) : List Host.Cell :=
  match m with
  | [] => if v = unlistedByte then [] else [(p, v)]
  | (a, b) :: r =>
    if p < a then (if v = unlistedByte then (a, b) :: r else (p, v) :: (a, b) :: r)
    else if p = a then (if v = unlistedByte then r else (p, v) :: r)
    else (a, b) :: memWrite r p v

/-- Bytes written one after another. -/
def memWriteAll (m : List Host.Cell) : List (Nat × Byte) → List Host.Cell
  | [] => m
  | (p, v) :: r => memWriteAll (memWrite m p v) r

/-- Every address of the store is at least `lo`, they rise, and no byte listed is what an unlisted address reads as. -/
def Memory.wfFrom : Nat → List Host.Cell → Bool
  | _, [] => true
  | lo, (a, b) :: r => decide (lo ≤ a) && b != unlistedByte && Memory.wfFrom (a + 1) r

/-- The canonical form of the store. -/
def Memory.wf (m : List Host.Cell) : Bool := Memory.wfFrom 0 m

/-! ## The program text in memory (20_memory.md R70) -/

/-- Every linear address that `Translate` can send to the physical address `p`, and perhaps others: `p` itself and one
in each range of `pages` (20_memory.md R61). -/
def linearsTo (s : State) (p : Nat) : List (BitVec 64) :=
  BitVec.ofNat 64 p :: s.pages.map fun r => BitVec.ofNat 64 (r.lin + (p - r.phys))

/-- A fetch at the linear address `a` reads the physical address `p` (20_memory.md R69). -/
def fetchesFrom (s : State) (p : Nat) (a : BitVec 64) : Bool :=
  match translate s .execute a with
  | .next q => q == p
  | _ => false

/-- A byte of the program text is fetched from the physical address `p`: a store to it would be seen by a fetch,
whatever linear address it goes through (20_memory.md R70). -/
def textCell (s : State) (p : Nat) : Bool := (linearsTo s p).any fun a => inText s a && fetchesFrom s p a

/-! ## Segmented access (20_memory.md R59) -/

/-- The checks after translation: a store to a byte of the program text is refused (20_memory.md R70), an access outside
the launch memory is stuck (R62). They come after every exception (log 35). -/
def storeChecks (s : State) (kind : Access) (ps : List Nat) : Host.Outcome (List Nat) Fault Refusal :=
  if kind == .write && ps.any (textCell s) then .refused .storeToText
  else match ps.find? (fun p => !allocated s p) with
    | some p => .fault (.unallocated p)
    | none => .next ps

/-- The physical addresses of the `n` bytes at `seg:off`, after every check of 20_memory.md R59 in its order:
`SegCheck`, canonical address, alignment, `Translate` of each byte. -/
def checkAccess (s : State) (name : SegName) (off : BitVec 64) (n : Nat) (kind : Access)
    (rule : AccessRule) : Host.Outcome (List Nat) Fault Refusal :=
  match segCheck s name off n kind rule with
  | some e => raise s e 0
  | none =>
    let as := byteAddrs s (linearAddr s name off) n
    if in64 s && !as.all canonical then raise s (if name = .ss then .ss else .gp) 0
    else match alignFault s (linearAddr s name off) n rule with
      | some e => raise s e 0
      | none => andThen (translateAll s kind as) (storeChecks s kind)

/-- `SegRead(seg, off, n)` (20_memory.md R59): the bytes, lowest address first. -/
def segRead (s : State) (name : SegName) (off : BitVec 64) (n : Nat) (rule : AccessRule) :
    Host.Outcome (List Byte) Fault Refusal :=
  andThen (checkAccess s name off n .read rule) fun ps => .next (ps.map (memRead s.mem))

/-- `SegWrite(seg, off, n, v)` (20_memory.md R59), `bytes` being the `n` bytes of `v`: all checks come before any byte
is written (R50). -/
def segWrite (s : State) (name : SegName) (off : BitVec 64) (bytes : List Byte) (rule : AccessRule) :
    Host.Outcome State Fault Refusal :=
  andThen (checkAccess s name off bytes.length .write rule) fun ps =>
    .next (setMem s (memWriteAll s.mem (ps.zip bytes)))

end Sys2Proof.Machine
end

