-- ==== Sys2Proof/Machine/SqrtFn.lean ====
section
/-! DEFINITION. SQRT32 and SQRT64 of 41_sqrt.md R121 to R125: IEEE 754 square root, correctly rounded, in exact integer
arithmetic. -/

namespace Sys2Proof.Machine

/-- The flags of one lane (41_sqrt.md R122): invalid, denormal, precision. -/
structure FpFlags where
  i : Bool
  d : Bool
  p : Bool
deriving DecidableEq, Repr

/-- No flag. -/
def FpFlags.none : FpFlags := ⟨false, false, false⟩

/-- A binary floating-point format (41_sqrt.md R121): exponent and fraction widths. -/
structure FpFormat where
  expBits : Nat
  fracBits : Nat
deriving DecidableEq, Repr

/-- Single precision (41_sqrt.md R121). -/
def binary32 : FpFormat := ⟨8, 23⟩
/-- Double precision (41_sqrt.md R121). -/
def binary64 : FpFormat := ⟨11, 52⟩

/-- The exponent bias (41_sqrt.md R121). -/
def FpFormat.bias (f : FpFormat) : Nat := 2 ^ (f.expBits - 1) - 1
/-- The exponent field of an encoded value. -/
def FpFormat.exp (f : FpFormat) (v : Nat) : Nat := v / 2 ^ f.fracBits % 2 ^ f.expBits
/-- The fraction field of an encoded value. -/
def FpFormat.frac (f : FpFormat) (v : Nat) : Nat := v % 2 ^ f.fracBits
/-- The sign bit alone, in its place. -/
def FpFormat.signBit (f : FpFormat) : Nat := 2 ^ (f.expBits + f.fracBits)
/-- Is the sign bit set. -/
def FpFormat.negative (f : FpFormat) (v : Nat) : Bool := decide (f.signBit ≤ v)
/-- The exponent field of infinities and NaNs. -/
def FpFormat.expMax (f : FpFormat) : Nat := 2 ^ f.expBits - 1
/-- The top fraction bit alone, in its place: it tells a QNaN from an SNaN (41_sqrt.md R121). -/
def FpFormat.quietBit (f : FpFormat) : Nat := 2 ^ (f.fracBits - 1)
/-- The QNaN floating-point indefinite (41_sqrt.md R123). -/
def FpFormat.indefinite (f : FpFormat) : Nat := f.signBit + f.expMax * 2 ^ f.fracBits + f.quietBit

/-- Bit by bit, the largest `r` that starts with `acc` in its higher bits and has `r * r ≤ n`. -/
def isqrtFrom (n : Nat) : Nat → Nat → Nat
  | 0, acc => acc
  | b + 1, acc => if (acc + 2 ^ b) * (acc + 2 ^ b) ≤ n then isqrtFrom n b (acc + 2 ^ b) else isqrtFrom n b acc

/-- The integer square root of a number below `4 ^ bits`. -/
def isqrt (bits n : Nat) : Nat := isqrtFrom n bits 0

/-- Shift a positive number left until it has `fb + 1` bits: the number, and by how many places. -/
def normalise (fb : Nat) : Nat → Nat → Nat × Nat
  | 0, m => (m, 0)
  | fuel + 1, m => if 2 ^ fb ≤ m then (m, 0) else ((normalise fb fuel (2 * m)).1, (normalise fb fuel (2 * m)).2 + 1)

/-- Significand of `fracBits + 1` bits and biased exponent of a positive finite value: it is
`significand * 2 ^ (exponent - bias - fracBits)`. A denormal is normalised, its exponent going to 0 or below. -/
def FpFormat.unpack (f : FpFormat) (v : Nat) : Nat × Int :=
  if f.exp v = 0 then
    ((normalise f.fracBits f.fracBits (f.frac v)).1, 1 - ((normalise f.fracBits f.fracBits (f.frac v)).2 : Int))
  else (2 ^ f.fracBits + f.frac v, f.exp v)

/-- Does rounding take the next value up (41_sqrt.md R124): `q` is the root of the radicand rounded down and `rem` what
remains. To nearest, a tie cannot be; RC = 10 goes up when inexact; 01 and 11 never. -/
def roundsUp (rc : BitVec 2) (q rem : Nat) : Bool :=
  if rc = 0 then decide (q < rem) else if rc = 2 then decide (rem ≠ 0) else false

/-- The correctly rounded root of `m * 2 ^ e`, `m` of `fracBits + 1` bits (41_sqrt.md R124): the encoded result, and
whether it is inexact. The radicand is `m` shifted left so that its exponent is even and its root has as many bits as
a significand. -/
def FpFormat.sqrtOf (f : FpFormat) (rc : BitVec 2) (m : Nat) (e : Int) : Nat × Bool :=
  let k : Nat := if (e - f.fracBits) % 2 = 0 then f.fracBits else f.fracBits + 1
  let radicand := m * 2 ^ k
  let q := isqrt (f.fracBits + 1) radicand
  let rem := radicand - q * q
  let up : Nat := if roundsUp rc q rem then 1 else 0
  let biased := ((e - k) / 2 + f.fracBits + f.bias).toNat
  (biased * 2 ^ f.fracBits + (q + up - 2 ^ f.fracBits), decide (rem ≠ 0))

/-- Is the value a denormal (41_sqrt.md R121). -/
def FpFormat.denormal (f : FpFormat) (v : Nat) : Bool := f.exp v == 0 && f.frac v != 0

/-- The input after the DAZ step: a denormal becomes the zero of its sign (41_sqrt.md R125). -/
def FpFormat.afterDaz (f : FpFormat) (v : Nat) (daz : Bool) : Nat :=
  if daz && f.denormal v then (if f.negative v then f.signBit else 0) else v

/-- SQRT of an encoded value (41_sqrt.md R122 to R125): the special values of R123, else the rounded root. `negD` says
whether a negative denormal raises D beside I (U12). -/
def FpFormat.sqrt (f : FpFormat) (v : Nat) (rc : BitVec 2) (daz negD : Bool) : Nat × FpFlags :=
  let x := f.afterDaz v daz
  if f.exp x = f.expMax ∧ f.frac x ≠ 0 then
    (if f.quietBit ≤ f.frac x then (x, .none) else (x + f.quietBit, ⟨true, false, false⟩))
  else if f.exp x = 0 ∧ f.frac x = 0 then (x, .none)
  else if f.negative x then (f.indefinite, ⟨true, f.denormal x && negD, false⟩)
  else if f.exp x = f.expMax then (x, .none)
  else
    let u := f.unpack x
    let r := f.sqrtOf rc u.1 (u.2 - f.bias - f.fracBits)
    (r.1, ⟨false, f.denormal x, r.2⟩)

/-- `SQRT64` (41_sqrt.md R122). -/
def sqrt64 (v : BitVec 64) (rc : BitVec 2) (daz : Bool) : BitVec 64 × FpFlags :=
  let r := binary64.sqrt v.toNat rc daz (Config.negDenormalRaisesD64 v rc)
  (BitVec.ofNat 64 r.1, r.2)

/-- `SQRT32` (41_sqrt.md R122). -/
def sqrt32 (v : BitVec 32) (rc : BitVec 2) (daz : Bool) : BitVec 32 × FpFlags :=
  let r := binary32.sqrt v.toNat rc daz (Config.negDenormalRaisesD32 v rc)
  (BitVec.ofNat 32 r.1, r.2)

end Sys2Proof.Machine
end

