-- ==== Sys2Proof/Machine/Flags.lean ====
section
/-! DEFINITION. Flag computations: EFLAGS, the STI table, MXCSR and the SIMD floating-point exceptions. -/

namespace Sys2Proof.Machine

/-! ## EFLAGS -/

/-- One bit of EFLAGS set, no other changed (10_state.md R24). -/
def setFlag (bit : Nat) (s : State) : State := { s with eflags := s.eflags ||| (1#32 <<< bit) }

/-- `CF <- 1` (42_flag_set.md R142). -/
def setCF (s : State) : State := setFlag 0 s
/-- `IF <- 1` (42_flag_set.md R147). -/
def setIF (s : State) : State := setFlag 9 s
/-- `DF <- 1` (42_flag_set.md R143). -/
def setDF (s : State) : State := setFlag 10 s
/-- `VIF <- 1` (42_flag_set.md R147). -/
def setVIF (s : State) : State := setFlag 19 s

/-! ## STI (42_flag_set.md R145 to R151) -/

/-- The three actions of STI (42_flag_set.md R145). -/
inductive StiAction | setIF | setVIF | fault
deriving DecidableEq, Repr

/-- `STI_ACTION` (42_flag_set.md R149), its default: the table of R150, ASSUMED (G22, log 12). -/
def stiAction (pe vm : Bool) (iopl cpl : BitVec 2) (pvi vip vme : Bool) : StiAction :=
  if !pe then .setIF
  else if !vm then
    if cpl ≤ iopl then .setIF
    else if cpl == 3 && pvi && !vip then .setVIF
    else .fault
  else
    if iopl == 3 then .setIF
    else if vme && !vip then .setVIF
    else .fault

/-- The action in a state: the context of 42_flag_set.md R146. -/
def stiActionOf (s : State) : StiAction :=
  stiAction (cr0PE s) (flagVM s) (flagIOPL s) (currentCpl s) (cr4PVI s) (flagVIP s) (cr4VME s)

/-! ## MXCSR (10_state.md R32, 41_sqrt.md R126) -/

/-- MXCSR.RC. -/
def mxcsrRC (s : State) : BitVec 2 := s.mxcsr.extractLsb' 13 2
/-- MXCSR.DAZ. -/
def mxcsrDAZ (s : State) : Bool := s.mxcsr.getLsbD 6
/-- MXCSR.IM. -/
def mxcsrIM (s : State) : Bool := s.mxcsr.getLsbD 7
/-- MXCSR.DM. -/
def mxcsrDM (s : State) : Bool := s.mxcsr.getLsbD 8
/-- MXCSR.PM. -/
def mxcsrPM (s : State) : Bool := s.mxcsr.getLsbD 12

/-- MXCSR replaced. -/
def setMxcsr (s : State) (v : BitVec 32) : State := { s with mxcsr := v }

/-- MXCSR as STMXCSR stores it: the reserved bits 31:16 as 0s (43_stmxcsr.md R155). -/
def storedMxcsr (s : State) : BitVec 32 := s.mxcsr &&& 0x0000FFFF

/-- The flags of a lane in their MXCSR places: IE bit 0, DE bit 1, PE bit 5 (41_sqrt.md R126). -/
def flagBits (f : FpFlags) : BitVec 32 :=
  (BitVec.ofBool f.p ++ 0#3 ++ BitVec.ofBool f.d ++ BitVec.ofBool f.i).setWidth 32

/-- The union over all lanes of the flags in their MXCSR places (41_sqrt.md R126). -/
def allFlagBits (fs : List FpFlags) : BitVec 32 := fs.foldr (fun f acc => flagBits f ||| acc) 0

/-- Is some I or D flag unmasked, detected before the computation (41_sqrt.md R126). -/
def preFault (s : State) (fs : List FpFlags) : Bool :=
  fs.any fun f => (f.i && !mxcsrIM s) || (f.d && !mxcsrDM s)

/-- Is some P flag unmasked, in a lane with no I (41_sqrt.md R126). -/
def postFault (s : State) (fs : List FpFlags) : Bool := fs.any fun f => f.p && !f.i && !mxcsrPM s

/-- The numeric step (41_sqrt.md R126): an unmasked condition raises #XM, or #UD with CR4.OSXMMEXCPT = 0, and leaves the
six flag bits of MXCSR unspecified (a free value, U13, log 17); else the flags are set and stay set. -/
def numericStep (s : State) (fs : List FpFlags) : Host.Outcome State Fault Refusal :=
  if preFault s fs || postFault s fs then
    raise
      { s with
        mxcsr := s.mxcsr.extractLsb' 6 26 ++ Config.mxcsrFlagsOnFault s.freeIdx
        freeIdx := s.freeIdx + 1 }
      (if cr4OSXMMEXCPT s then .xm else .ud) 0
  else .next (setMxcsr s (s.mxcsr ||| allFlagBits fs))

/-! ## Availability (41_sqrt.md R127, 43_stmxcsr.md R158) -/

/-- The checks of the legacy SSE forms, in the order written; `has` is the feature flag of the row. -/
def legacySseCheck (s : State) (lock has : Bool) : Option Exc :=
  if lock then some .ud
  else if cr0EM s then some .ud
  else if !cr4OSFXSR s then some .ud
  else if !has then some .ud
  else if cr0TS s then some .nm
  else none

/-- The checks of the VEX forms, in the order written; `reserved` is the row's own #UD condition on VEX.L and VEX.vvvv.
Prefixes that may not precede VEX are the decoder's #UD (30_encoding.md R92). -/
def vexCheck (s : State) (reserved : Bool) : Option Exc :=
  if realOrV86 s then some .ud
  else if !s.features.hasAvx then some .ud
  else if !cr4OSXSAVE s then some .ud
  else if xcr0SseAvx s != 3 then some .ud
  else if reserved then some .ud
  else if cr0TS s then some .nm
  else none

end Sys2Proof.Machine
end

