-- ==== Sys2Proof/Machine/FlagSet.lean ====
section
/-! DEFINITION. STC, STD, STI (42_flag_set.md). -/

namespace Sys2Proof.Machine

/-- STC (42_flag_set.md R142). -/
def execStc (p : Pfx) (s : State) : Host.Outcome State Fault Refusal :=
  if p.lock then raise s .ud 0 else .next (retire (instrLen (.stc p)) (setCF s))

/-- STD (42_flag_set.md R143). -/
def execStd (p : Pfx) (s : State) : Host.Outcome State Fault Refusal :=
  if p.lock then raise s .ud 0 else .next (retire (instrLen (.std p)) (setDF s))

/-- STI (42_flag_set.md R145): by the action, IF set with the delay when it was 0 (R151), VIF set, or #GP(0) (R147). -/
def execSti (p : Pfx) (s : State) : Host.Outcome State Fault Refusal :=
  if p.lock then raise s .ud 0
  else match stiActionOf s with
    | .setIF =>
      .next { retire (instrLen (.sti p)) (setIF s) with stiShadow := !flagIF s, afterSti := true }
    | .setVIF => .next { retire (instrLen (.sti p)) (setVIF s) with afterSti := true }
    | .fault => raise s .gp 0

end Sys2Proof.Machine
end

