-- ==== Sys2Proof/Machine/Operands.lean ====
section
/-! DEFINITION. Operands: register numbers, effective addresses, segments, and the reading and writing of `r/m`. -/

namespace Sys2Proof.Machine

/-- What an address takes from the prefixes: segment override, 67, and the bits X and B (30_encoding.md R82). -/
structure AddrBits where
  seg : Option SegName
  adsz : Bool
  x : Bool
  b : Bool
deriving DecidableEq, Repr

/-- The address part of legacy prefixes and REX. -/
def addrBitsOfPfx (p : Pfx) : AddrBits := ⟨p.seg, p.adsz, p.x, p.b⟩

/-- The address part of a VEX prefix. -/
def addrBitsOfVex (v : Vex) : AddrBits := ⟨v.seg, v.adsz, v.x, v.b⟩

/-- A register number: three bits, extended by a REX or VEX bit in 64-bit mode only (30_encoding.md R82, R91). -/
def regNum (s : State) (ext : Bool) (n : BitVec 3) : BitVec 4 := BitVec.ofBool (in64 s && ext) ++ n

/-- The vector register that VEX.vvvv names; its top bit is ignored outside 64-bit mode (30_encoding.md R91). -/
def vvvvNum (s : State) (v : BitVec 4) : BitVec 4 := if in64 s then v else (v.setWidth 3).setWidth 4

/-! ## Effective address (20_memory.md R55, 30_encoding.md R84 to R87) -/

/-- `trunc_A`, the result in 64 bits (20_memory.md R55). -/
def truncA (a : AddrSize) (v : BitVec 64) : BitVec 64 :=
  match a with
  | .a16 => (v.setWidth 16).setWidth 64
  | .a32 => (v.setWidth 32).setWidth 64
  | .a64 => v

/-- A displacement, sign-extended (30_encoding.md R87). -/
def dispValue {w : Nat} : Disp w → BitVec 64
  | .none => 0
  | .d8 v => v.signExtend 64
  | .full v => v.signExtend 64

/-- The address-size view of a general register (30_encoding.md R85). -/
def addrReg (s : State) (a : AddrSize) (i : BitVec 4) : BitVec 64 := truncA a (readX s i)

/-- Base plus index of the 16-bit rows (30_encoding.md R84): BX is 3, BP 5, SI 6, DI 7. -/
def base16 (s : State) (rm : BitVec 3) : BitVec 64 :=
  if rm = 0 then addrReg s .a16 3 + addrReg s .a16 6
  else if rm = 1 then addrReg s .a16 3 + addrReg s .a16 7
  else if rm = 2 then addrReg s .a16 5 + addrReg s .a16 6
  else if rm = 3 then addrReg s .a16 5 + addrReg s .a16 7
  else if rm = 4 then addrReg s .a16 6
  else if rm = 5 then addrReg s .a16 7
  else if rm = 6 then addrReg s .a16 5
  else addrReg s .a16 3

/-- The scaled index of a SIB byte; register number 4 means none (30_encoding.md R86). -/
def sibIndex (s : State) (a : AddrSize) (e : AddrBits) (scale : BitVec 2) (index : BitVec 3) : BitVec 64 :=
  if regNum s e.x index = 4 then 0 else addrReg s a (regNum s e.x index) <<< scale.toNat

/-- The effective address of a memory operand of an instruction of `len` bytes (20_memory.md R55): in 64-bit mode
`memDisp` is relative to the next instruction. -/
def effAddr (s : State) (e : AddrBits) (len : Nat) (m : MemForm) : BitVec 64 :=
  let a := addrSize (codeCtx s) e.adsz
  match m with
  | .mem16 rm d => truncA .a16 (base16 s rm + dispValue d)
  | .mem16Abs d => truncA .a16 (d.setWidth 64)
  | .memBase rm d => truncA a (addrReg s a (regNum s e.b rm) + dispValue d)
  | .memDisp d => truncA a (if in64 s then s.pc + BitVec.ofNat 64 len + d.signExtend 64 else d.signExtend 64)
  | .memSib sc ix bs d => truncA a (addrReg s a (regNum s e.b bs) + sibIndex s a e sc ix + dispValue d)
  | .memSibNoBase sc ix d => truncA a (sibIndex s a e sc ix + d.signExtend 64)

/-! ## Segment of a memory operand (20_memory.md R56) -/

/-- Is the base register number 4 or 5, (R/E)SP or (R/E)BP (30_encoding.md R86). -/
def stackBase (i : BitVec 4) : Bool := i == 4 || i == 5

/-- The default segment: SS for a base of SP or BP, else DS (20_memory.md R56). -/
def defaultSeg (s : State) (e : AddrBits) (m : MemForm) : SegName :=
  match m with
  | .mem16 rm _ => if rm = 2 ∨ rm = 3 ∨ rm = 6 then .ss else .ds
  | .mem16Abs _ => .ds
  | .memBase rm _ => if stackBase (regNum s e.b rm) then .ss else .ds
  | .memDisp _ => .ds
  | .memSib _ _ bs _ => if stackBase (regNum s e.b bs) then .ss else .ds
  | .memSibNoBase _ _ _ => .ds

/-- The segment of a memory operand: an override replaces the default; in 64-bit mode overrides to ES, CS, SS, DS are
ignored (20_memory.md R56, 30_encoding.md R76). Log 20. -/
def operandSeg (s : State) (e : AddrBits) (m : MemForm) : SegName :=
  match e.seg with
  | none => defaultSeg s e m
  | some g => if in64 s && !(g == .fs || g == .gs) then defaultSeg s e m else g

/-! ## Reading and writing `r/m` -/

/-- The store of `bytes` to a memory operand, under the instruction's rule (20_memory.md R59). -/
def storeMem (s : State) (e : AddrBits) (len : Nat) (m : MemForm) (bytes : List Byte)
    (rule : AccessRule) : Host.Outcome State Fault Refusal :=
  segWrite s (operandSeg s e m) (effAddr s e len m) bytes rule

/-- The source of a square root at width `w` (41_sqrt.md R118): the low bits of a register, or `w / 8` bytes of memory. -/
def readVec (w : Nat) (s : State) (e : AddrBits) (len : Nat) (rm : RM) (rule : AccessRule) :
    Host.Outcome (BitVec w) Fault Refusal :=
  match rm with
  | .reg n => .next ((readYmm s (regNum s e.b n)).setWidth w)
  | .mem m =>
    andThen (segRead s (operandSeg s e m) (effAddr s e len m) (w / 8) rule) fun bs => .next (leValue w bs)

end Sys2Proof.Machine
end

