-- ==== Sys2Proof/Machine/Smsw.lean ====
section
/-! DEFINITION. SMSW (40_smsw.md). -/

namespace Sys2Proof.Machine

/-- The machine status word, CR0[15:0] (40_smsw.md R108). -/
def msw (s : State) : BitVec 16 := s.cr0.setWidth 16

/-- The memory destination of SMSW at every operand size (40_smsw.md R113): two bytes, CR0[15:0]. -/
def smswToMem (len : Nat) (p : Pfx) (m : MemForm) (s : State) : Host.Outcome State Fault Refusal :=
  andThen (storeMem s (addrBitsOfPfx p) len m (leBytes 2 (msw s)) .plain) fun t => .next (retire len t)

/-- The register destination of SMSW r32 (40_smsw.md R110): CR0[31:0] in 64-bit mode; elsewhere CR0[15:0] under 16
undefined bits, a free value (R111). -/
def smswToReg32 (n : BitVec 4) (s : State) : State :=
  if in64 s then writeGpr s n .o32 s.cr0
  else writeGpr { s with freeIdx := s.freeIdx + 1 } n .o32
    ((Config.smswUndefinedBits s.freeIdx ++ msw s).setWidth 64)

/-- SMSW r/m16 (40_smsw.md R109). -/
def execSmswRm16 (p : Pfx) (rm : RM) (s : State) : Host.Outcome State Fault Refusal :=
  if p.lock then raise s .ud 0
  else match rm with
    | .reg n =>
      .next (retire (instrLen (.smswRm16 p rm)) (writeGpr s (regNum s p.b n) .o16 ((msw s).setWidth 64)))
    | .mem m => smswToMem (instrLen (.smswRm16 p rm)) p m s

/-- SMSW r32/m16 (40_smsw.md R110, R111). -/
def execSmswR32M16 (p : Pfx) (rm : RM) (s : State) : Host.Outcome State Fault Refusal :=
  if p.lock then raise s .ud 0
  else match rm with
    | .reg n => .next (retire (instrLen (.smswR32M16 p rm)) (smswToReg32 (regNum s p.b n) s))
    | .mem m => smswToMem (instrLen (.smswR32M16 p rm)) p m s

/-- SMSW r64/m16 (40_smsw.md R112). -/
def execSmswR64M16 (p : Pfx) (rm : RM) (s : State) : Host.Outcome State Fault Refusal :=
  if p.lock then raise s .ud 0
  else match rm with
    | .reg n => .next (retire (instrLen (.smswR64M16 p rm)) (writeGpr s (regNum s p.b n) .o64 s.cr0))
    | .mem m => smswToMem (instrLen (.smswR64M16 p rm)) p m s

end Sys2Proof.Machine
end

