-- ==== Sys2Proof/Machine/Sqrt.lean ====
section
/-! DEFINITION. SQRTPD, SQRTPS, SQRTSD, SQRTSS and their VEX forms (41_sqrt.md). -/

namespace Sys2Proof.Machine

/-! ## Lanes (41_sqrt.md R119) -/

/-- Double-precision lane `k`: bits 64k+63 to 64k. -/
def lane64 {w : Nat} (v : BitVec w) (k : Nat) : BitVec 64 := v.extractLsb' (64 * k) 64
/-- Single-precision lane `k`: bits 32k+31 to 32k. -/
def lane32 {w : Nat} (v : BitVec w) (k : Nat) : BitVec 32 := v.extractLsb' (32 * k) 32

/-- Two double-precision roots and their flags. -/
def sqrtPd128 (v : BitVec 128) (rc : BitVec 2) (daz : Bool) : BitVec 128 × List FpFlags :=
  let r (k : Nat) := sqrt64 (lane64 v k) rc daz
  ((r 1).1 ++ (r 0).1, [(r 0).2, (r 1).2])

/-- Four double-precision roots and their flags. -/
def sqrtPd256 (v : BitVec 256) (rc : BitVec 2) (daz : Bool) : BitVec 256 × List FpFlags :=
  let r (k : Nat) := sqrt64 (lane64 v k) rc daz
  ((r 3).1 ++ (r 2).1 ++ (r 1).1 ++ (r 0).1, [(r 0).2, (r 1).2, (r 2).2, (r 3).2])

/-- Four single-precision roots and their flags. -/
def sqrtPs128 (v : BitVec 128) (rc : BitVec 2) (daz : Bool) : BitVec 128 × List FpFlags :=
  let r (k : Nat) := sqrt32 (lane32 v k) rc daz
  ((r 3).1 ++ (r 2).1 ++ (r 1).1 ++ (r 0).1, [(r 0).2, (r 1).2, (r 2).2, (r 3).2])

/-- Eight single-precision roots and their flags. -/
def sqrtPs256 (v : BitVec 256) (rc : BitVec 2) (daz : Bool) : BitVec 256 × List FpFlags :=
  let r (k : Nat) := sqrt32 (lane32 v k) rc daz
  ((r 7).1 ++ (r 6).1 ++ (r 5).1 ++ (r 4).1 ++ (r 3).1 ++ (r 2).1 ++ (r 1).1 ++ (r 0).1,
    [(r 0).2, (r 1).2, (r 2).2, (r 3).2, (r 4).2, (r 5).2, (r 6).2, (r 7).2])

/-- One double-precision root. -/
def sqrtSd (v : BitVec 64) (rc : BitVec 2) (daz : Bool) : BitVec 64 × List FpFlags :=
  ((sqrt64 v rc daz).1, [(sqrt64 v rc daz).2])

/-- One single-precision root. -/
def sqrtSs (v : BitVec 32) (rc : BitVec 2) (daz : Bool) : BitVec 32 × List FpFlags :=
  ((sqrt32 v rc daz).1, [(sqrt32 v rc daz).2])

/-! ## Destinations (41_sqrt.md R120) -/

/-- The low `w` bits replaced, the others kept: the legacy forms. -/
def keepAbove (w : Nat) (old : BitVec 256) (r : BitVec w) : BitVec 256 := ((old >>> w) <<< w) ||| r.setWidth 256

/-- The low `w` bits the result, the bits up to 127 those of the first source, the others 0: the VEX scalar forms. -/
def mergeScalar (w : Nat) (src1 : BitVec 256) (r : BitVec w) : BitVec 256 :=
  keepAbove w ((src1.setWidth 128).setWidth 256) r

/-! ## The shared operation (41_sqrt.md R140: checks, read, numeric step, write) -/

/-- After the availability checks: read the source at width `w`, compute, do the numeric step, write the destination
made of the result by `dest`, all reads being of the state before. -/
def sqrtBody (w : Nat) (e : AddrBits) (len : Nat) (dst : BitVec 4) (rm : RM) (rule : AccessRule)
    (f : BitVec w → BitVec 2 → Bool → BitVec w × List FpFlags) (dest : BitVec w → BitVec 256) (s : State) :
    Host.Outcome State Fault Refusal :=
  andThen (readVec w s e len rm rule) fun v =>
    andThen (numericStep s (f v (mxcsrRC s) (mxcsrDAZ s)).2) fun t =>
      .next (retire len (setYmm t dst (dest (f v (mxcsrRC s) (mxcsrDAZ s)).1)))

/-- A legacy form: the checks of 41_sqrt.md R127, bits above the result unchanged (R120). -/
def legacySqrt (w len : Nat) (has : Bool) (rule : AccessRule) (p : Pfx) (reg : BitVec 3) (rm : RM)
    (f : BitVec w → BitVec 2 → Bool → BitVec w × List FpFlags) (s : State) : Host.Outcome State Fault Refusal :=
  match legacySseCheck s p.lock has with
  | some x => raise s x 0
  | none =>
    sqrtBody w (addrBitsOfPfx p) len (regNum s p.r reg) rm rule f
      (keepAbove w (readYmm s (regNum s p.r reg))) s

/-- A packed VEX form: vvvv reserved, bits above the result zeroed (41_sqrt.md R120, R127). -/
def vexPackedSqrt (w len : Nat) (v : Vex) (reg : BitVec 3) (rm : RM)
    (f : BitVec w → BitVec 2 → Bool → BitVec w × List FpFlags) (s : State) : Host.Outcome State Fault Refusal :=
  match vexCheck s (v.vvvv != 0) with
  | some x => raise s x 0
  | none =>
    sqrtBody w (addrBitsOfVex v) len (regNum s v.r reg) rm .plain f (fun r => r.setWidth 256) s

/-- A scalar VEX form: vvvv names the first source (41_sqrt.md R120, R127, R136, R138). -/
def vexScalarSqrt (w len : Nat) (v : Vex) (reg : BitVec 3) (rm : RM)
    (f : BitVec w → BitVec 2 → Bool → BitVec w × List FpFlags) (s : State) : Host.Outcome State Fault Refusal :=
  match vexCheck s false with
  | some x => raise s x 0
  | none =>
    sqrtBody w (addrBitsOfVex v) len (regNum s v.r reg) rm .plain f
      (mergeScalar w (readYmm s (vvvvNum s v.vvvv))) s

/-! ## The ten rows -/

/-- SQRTPD xmm1, xmm2/m128 (41_sqrt.md R129). -/
def execSqrtpd (p : Pfx) (reg : BitVec 3) (rm : RM) (s : State) : Host.Outcome State Fault Refusal :=
  legacySqrt 128 (instrLen (.sqrtpd p reg rm)) s.features.hasSse2 .packed16 p reg rm sqrtPd128 s

/-- VSQRTPD xmm1, xmm2/m128 (41_sqrt.md R130). -/
def execVsqrtpdXmm (v : Vex) (reg : BitVec 3) (rm : RM) (s : State) : Host.Outcome State Fault Refusal :=
  vexPackedSqrt 128 (instrLen (.vsqrtpdXmm v reg rm)) v reg rm sqrtPd128 s

/-- VSQRTPD ymm1, ymm2/m256 (41_sqrt.md R131). -/
def execVsqrtpdYmm (v : Vex) (reg : BitVec 3) (rm : RM) (s : State) : Host.Outcome State Fault Refusal :=
  vexPackedSqrt 256 (instrLen (.vsqrtpdYmm v reg rm)) v reg rm sqrtPd256 s

/-- SQRTPS xmm1, xmm2/m128 (41_sqrt.md R132). -/
def execSqrtps (p : Pfx) (reg : BitVec 3) (rm : RM) (s : State) : Host.Outcome State Fault Refusal :=
  legacySqrt 128 (instrLen (.sqrtps p reg rm)) s.features.hasSse .packed16 p reg rm sqrtPs128 s

/-- VSQRTPS xmm1, xmm2/m128 (41_sqrt.md R133). -/
def execVsqrtpsXmm (v : Vex) (reg : BitVec 3) (rm : RM) (s : State) : Host.Outcome State Fault Refusal :=
  vexPackedSqrt 128 (instrLen (.vsqrtpsXmm v reg rm)) v reg rm sqrtPs128 s

/-- VSQRTPS ymm1, ymm2/m256 (41_sqrt.md R134). -/
def execVsqrtpsYmm (v : Vex) (reg : BitVec 3) (rm : RM) (s : State) : Host.Outcome State Fault Refusal :=
  vexPackedSqrt 256 (instrLen (.vsqrtpsYmm v reg rm)) v reg rm sqrtPs256 s

/-- SQRTSD xmm1, xmm2/m64 (41_sqrt.md R135). -/
def execSqrtsd (p : Pfx) (reg : BitVec 3) (rm : RM) (s : State) : Host.Outcome State Fault Refusal :=
  legacySqrt 64 (instrLen (.sqrtsd p reg rm)) s.features.hasSse2 .plain p reg rm sqrtSd s

/-- VSQRTSD xmm1, xmm2, xmm3/m64 (41_sqrt.md R136). -/
def execVsqrtsd (v : Vex) (reg : BitVec 3) (rm : RM) (s : State) : Host.Outcome State Fault Refusal :=
  vexScalarSqrt 64 (instrLen (.vsqrtsd v reg rm)) v reg rm sqrtSd s

/-- SQRTSS xmm1, xmm2/m32 (41_sqrt.md R137). -/
def execSqrtss (p : Pfx) (reg : BitVec 3) (rm : RM) (s : State) : Host.Outcome State Fault Refusal :=
  legacySqrt 32 (instrLen (.sqrtss p reg rm)) s.features.hasSse .plain p reg rm sqrtSs s

/-- VSQRTSS xmm1, xmm2, xmm3/m32 (41_sqrt.md R138). -/
def execVsqrtss (v : Vex) (reg : BitVec 3) (rm : RM) (s : State) : Host.Outcome State Fault Refusal :=
  vexScalarSqrt 32 (instrLen (.vsqrtss v reg rm)) v reg rm sqrtSs s

end Sys2Proof.Machine
end

