-- ==== Sys2Proof/Machine/Stmxcsr.lean ====
section
/-! DEFINITION. STMXCSR and VSTMXCSR (43_stmxcsr.md). -/

namespace Sys2Proof.Machine

/-- The store of both forms (43_stmxcsr.md R155): four bytes, under the checks of R159. -/
def mxcsrToMem (len : Nat) (e : AddrBits) (m : MemForm) (s : State) : Host.Outcome State Fault Refusal :=
  andThen (storeMem s e len m (leBytes 4 (storedMxcsr s)) .mxcsrStore) fun t => .next (retire len t)

/-- STMXCSR m32 (43_stmxcsr.md R155, R158). -/
def execStmxcsr (p : Pfx) (m : MemForm) (s : State) : Host.Outcome State Fault Refusal :=
  match legacySseCheck s p.lock s.features.hasSse with
  | some x => raise s x 0
  | none => mxcsrToMem (instrLen (.stmxcsr p m)) (addrBitsOfPfx p) m s

/-- VSTMXCSR m32 (43_stmxcsr.md R156, R158): VEX.L must be 0 and vvvv 1111b. -/
def execVstmxcsr (v : Vex) (m : MemForm) (s : State) : Host.Outcome State Fault Refusal :=
  match vexCheck s (v.l || v.vvvv != 0) with
  | some x => raise s x 0
  | none => mxcsrToMem (instrLen (.vstmxcsr v m)) (addrBitsOfVex v) m s

end Sys2Proof.Machine
end

