-- ==== Sys2Proof/Machine/Stos.lean ====
section
/-! DEFINITION. STOS, STOSB, STOSW, STOSD, STOSQ (44_stos.md). -/

namespace Sys2Proof.Machine

/-- The width of the index register by address size (44_stos.md R163, R165). -/
def indexSize : AddrSize → OpSize
  | .a16 => .o16
  | .a32 => .o32
  | .a64 => .o64

/-- The index after a store of `n` bytes (44_stos.md R165): up with DF = 0, down with DF = 1, wrapping at the address
size. -/
def nextIndex (s : State) (a : AddrSize) (n : Nat) : BitVec 64 :=
  truncA a (if flagDF s then addrReg s a 7 - BitVec.ofNat 64 n else addrReg s a 7 + BitVec.ofNat 64 n)

/-- STOS of `n` bytes (44_stos.md R173): the low bytes of RAX to ES:index, then the index stepped; the segment cannot be
overridden (R163). -/
def stos (n len : Nat) (p : Pfx) (s : State) : Host.Outcome State Fault Refusal :=
  if p.lock then raise s .ud 0
  else
    let a := addrSize (codeCtx s) p.adsz
    andThen (segWrite s .es (addrReg s a 7) (leBytes n (readX s 0)) .plain) fun t =>
      .next (retire len (writeGpr t 7 (indexSize a) (nextIndex s a n)))

/-- STOS m8 (44_stos.md R166). -/
def execStosM8 (p : Pfx) (s : State) : Host.Outcome State Fault Refusal := stos 1 (instrLen (.stosM8 p)) p s

/-- STOS m16 (44_stos.md R167). -/
def execStosM16 (p : Pfx) (s : State) : Host.Outcome State Fault Refusal := stos 2 (instrLen (.stosM16 p)) p s

/-- STOS m32 (44_stos.md R168). -/
def execStosM32 (p : Pfx) (s : State) : Host.Outcome State Fault Refusal := stos 4 (instrLen (.stosM32 p)) p s

/-- STOS m64 (44_stos.md R169). -/
def execStosM64 (p : Pfx) (s : State) : Host.Outcome State Fault Refusal := stos 8 (instrLen (.stosM64 p)) p s

/-- STOSB (44_stos.md R166). -/
def execStosb (p : Pfx) (s : State) : Host.Outcome State Fault Refusal := stos 1 (instrLen (.stosb p)) p s

/-- STOSW (44_stos.md R167). -/
def execStosw (p : Pfx) (s : State) : Host.Outcome State Fault Refusal := stos 2 (instrLen (.stosw p)) p s

/-- STOSD (44_stos.md R168). -/
def execStosd (p : Pfx) (s : State) : Host.Outcome State Fault Refusal := stos 4 (instrLen (.stosd p)) p s

/-- STOSQ (44_stos.md R169). -/
def execStosq (p : Pfx) (s : State) : Host.Outcome State Fault Refusal := stos 8 (instrLen (.stosq p)) p s

end Sys2Proof.Machine
end

