-- ==== Sys2Proof/Machine/Str.lean ====
section
/-! DEFINITION. STR (45_str.md). -/

namespace Sys2Proof.Machine

/-- STR r/m16 (45_str.md R175): the selector of TR, zero-extended to the operand size for a register (R176), two bytes
for memory (R177, under the checks of R180); #UD in real-address and virtual-8086 mode (R178). -/
def execStr (p : Pfx) (rm : RM) (s : State) : Host.Outcome State Fault Refusal :=
  if p.lock then raise s .ud 0
  else if realOrV86 s then raise s .ud 0
  else match rm with
    | .reg n =>
      .next (retire (instrLen (.str p rm))
        (writeGpr s (regNum s p.b n) (operandSize (codeCtx s) p.opsz p.w) (s.tr.sel.setWidth 64)))
    | .mem m =>
      andThen (storeMem s (addrBitsOfPfx p) (instrLen (.str p rm)) m (leBytes 2 s.tr.sel) .strStore) fun t =>
        .next (retire (instrLen (.str p rm)) t)

end Sys2Proof.Machine
end

