-- ==== Sys2Proof/Machine/Dispatch.lean ====
section
/-! DEFINITION. The meaning of each instruction: one arm per row of spec/opcode_table.json. -/

namespace Sys2Proof.Machine

def exec (i : Instr) (s : State) : Host.Outcome State Fault Refusal :=
  match i with
  | .smswRm16 p rm => Sys2Proof.Machine.execSmswRm16 p rm s
  | .smswR32M16 p rm => Sys2Proof.Machine.execSmswR32M16 p rm s
  | .smswR64M16 p rm => Sys2Proof.Machine.execSmswR64M16 p rm s
  | .sqrtpd p reg rm => Sys2Proof.Machine.execSqrtpd p reg rm s
  | .vsqrtpdXmm v reg rm => Sys2Proof.Machine.execVsqrtpdXmm v reg rm s
  | .vsqrtpdYmm v reg rm => Sys2Proof.Machine.execVsqrtpdYmm v reg rm s
  | .sqrtps p reg rm => Sys2Proof.Machine.execSqrtps p reg rm s
  | .vsqrtpsXmm v reg rm => Sys2Proof.Machine.execVsqrtpsXmm v reg rm s
  | .vsqrtpsYmm v reg rm => Sys2Proof.Machine.execVsqrtpsYmm v reg rm s
  | .sqrtsd p reg rm => Sys2Proof.Machine.execSqrtsd p reg rm s
  | .vsqrtsd v reg rm => Sys2Proof.Machine.execVsqrtsd v reg rm s
  | .sqrtss p reg rm => Sys2Proof.Machine.execSqrtss p reg rm s
  | .vsqrtss v reg rm => Sys2Proof.Machine.execVsqrtss v reg rm s
  | .stc p => Sys2Proof.Machine.execStc p s
  | .std p => Sys2Proof.Machine.execStd p s
  | .sti p => Sys2Proof.Machine.execSti p s
  | .stmxcsr p m => Sys2Proof.Machine.execStmxcsr p m s
  | .vstmxcsr v m => Sys2Proof.Machine.execVstmxcsr v m s
  | .stosM8 p => Sys2Proof.Machine.execStosM8 p s
  | .stosM16 p => Sys2Proof.Machine.execStosM16 p s
  | .stosM32 p => Sys2Proof.Machine.execStosM32 p s
  | .stosM64 p => Sys2Proof.Machine.execStosM64 p s
  | .stosb p => Sys2Proof.Machine.execStosb p s
  | .stosw p => Sys2Proof.Machine.execStosw p s
  | .stosd p => Sys2Proof.Machine.execStosd p s
  | .stosq p => Sys2Proof.Machine.execStosq p s
  | .str p rm => Sys2Proof.Machine.execStr p rm s

end Sys2Proof.Machine
end

