-- ==== Sys2Proof/Machine/Fetch.lean ====
section
/-! DEFINITION. Instruction boundaries and instruction fetch (60_exceptions.md R193 to R198, 20_memory.md R69,
70_reset_and_hazards.md R216). -/

namespace Sys2Proof.Machine

/-! ## Events at a boundary -/

/-- The pending-event inputs at this boundary; none is pending when no input is left (10_state.md R42). -/
def pendingNow (s : State) : Pending := s.inputs.headD ⟨false, false, false⟩

/-- An external maskable interrupt is recognised: pending, IF = 1, no delay after STI (60_exceptions.md R196). -/
def extRecognised (s : State) : Bool := (pendingNow s).ext && flagIF s && !s.stiShadow

/-- A pending NMI is held back at the boundary right after an STI, at the processor's choice: a free value
(60_exceptions.md R197, log 11). -/
def nmiHeld (s : State) : Bool := (pendingNow s).nmi && s.afterSti && Config.nmiHeldAfterSti s.freeIdx

/-- The same for an SMI (60_exceptions.md R197, log 11). -/
def smiHeld (s : State) : Bool := (pendingNow s).smi && s.afterSti && Config.smiHeldAfterSti s.freeIdx

/-- The events recognised at this boundary. -/
def recognised (s : State) : List IntKind :=
  (if extRecognised s then [.external] else []) ++
    ((if (pendingNow s).nmi && !nmiHeld s then [.nmi] else []) ++
      (if (pendingNow s).smi && !smiHeld s then [.smi] else []))

/-- An NMI or SMI held back stays pending at the next boundary (60_exceptions.md R197). -/
def carryHeld (nmi smi : Bool) (later : List Pending) : List Pending :=
  if nmi || smi then
    match later with
    | [] => [⟨false, nmi, smi⟩]
    | q :: r => { q with nmi := q.nmi || nmi, smi := q.smi || smi } :: r
  else later

/-- The state after a boundary where nothing is recognised: the inputs of this boundary are used up; where the free
choice of R197 was asked, it is drawn. -/
def passBoundary (s : State) : State :=
  { s with
    inputs := carryHeld (nmiHeld s) (smiHeld s) s.inputs.tail
    freeIdx := if s.afterSti && ((pendingNow s).nmi || (pendingNow s).smi) then s.freeIdx + 1 else s.freeIdx }

/-- The event taken at this boundary, if one is: any of those recognised, their order being free
(60_exceptions.md R197, log 10). -/
def takenEvent (s : State) : Option IntKind :=
  match recognised s with
  | [] => none
  | [k] => some k
  | ks => ks[Config.eventChoice s.freeIdx % ks.length]?

/-! ## Fetch -/

/-- The offset in CS that `pc` holds: RIP, EIP or IP (10_state.md R21; log 42). -/
def codeOffset (s : State) : BitVec 64 :=
  if in64 s then s.pc else if default32 s then (s.pc.setWidth 32).setWidth 64 else (s.pc.setWidth 16).setWidth 64

/-- The linear address of `CS:pc` (20_memory.md R69). -/
def linearPc (s : State) : BitVec 64 := linearAddr s .cs (codeOffset s)

/-- `pc` is at the end of the program text: the run is over (70_reset_and_hazards.md R216). -/
def atEnd (s : State) : Bool := linearPc s == s.text.base + BitVec.ofNat 64 s.text.len

/-- Byte `k` of the instruction at `CS:pc` (20_memory.md R69). Outside the program text, the limit of CS or the
canonical addresses it is refused (10_state.md R22, 70_reset_and_hazards.md R216); `Translate` may raise #PF (log 32).
The offset of byte `k` does not wrap at 2^16 in 16-bit code: below a larger limit of CS the fetch goes on at 10000H
(DESIGN CHOICE, log 41). -/
def fetchByte (s : State) (k : Nat) : Host.Outcome Byte Fault Refusal :=
  let a := byteAddr s (linearPc s) k
  if !inText s a then .refused .fetchOutsideText
  else if !in64 s && decide (s.cs.limit.toNat < (codeOffset s).toNat + k) then .refused .fetchOutsideLimit
  else if in64 s && !canonical a then .refused .fetchNonCanonical
  else andThen (translate s .execute a) fun p =>
    if allocated s p then .next (memRead s.mem p) else .fault (.unallocated p)

/-- Up to `n` bytes of the instruction from byte `k` on: those before the first that cannot be fetched. -/
def fetchBytes (s : State) : Nat → Nat → List Byte
  | 0, _ => []
  | n + 1, k => match fetchByte s k with
    | .next b => b :: fetchBytes s n (k + 1)
    | _ => []

/-- The bytes at the program counter, at most as many as the longest instruction has. -/
def codeBytes (s : State) : List Byte := fetchBytes s maxInstrLen 0

/-- The bytes end before the instruction does: the next byte's own fault or refusal, or #GP(0) for an instruction
longer than 15 bytes, which the prefix discipline rules out (30_encoding.md R72, log 26). -/
def truncatedFetch (s : State) : Host.Outcome Instr Fault Refusal :=
  if maxInstrLen ≤ (codeBytes s).length then raise s .gp 0
  else match fetchByte s (codeBytes s).length with
    | .fault f => .fault f
    | .refused r => .refused r
    | .next _ => raise s .gp 0

/-- The instruction at the program counter. -/
def fetchInstr (s : State) : Host.Outcome Instr Fault Refusal :=
  match decode (codeCtx s) (codeBytes s) with
  | .ok i _ => .next i
  | .ud => raise s .ud 0
  | .refused why => .refused (.decode why)
  | .truncated => truncatedFetch s

/-- What comes before an instruction runs: the end of the run (R216), an event (R198), the single-step trap the model
excludes (R204), the fetch. The answer is the state the instruction runs in, and the instruction. -/
def nextInstr (s : State) : Host.Outcome (State × Instr) Fault Refusal :=
  if atEnd s then .refused .runOver
  else match takenEvent s with
    | some k => .fault (.interrupted k s)
    | none =>
      if flagTF s then .refused .singleStep
      else andThen (fetchInstr (passBoundary s)) fun i => .next (passBoundary s, i)

/-! ## Placing an instruction -/

/-- Bytes placed at the linear addresses from `k` bytes after `CS:pc` on, through `Translate` where it answers. -/
def placeBytes (s : State) (mem : List Host.Cell) : Nat → List Byte → List Host.Cell
  | _, [] => mem
  | k, b :: r =>
    let a := byteAddr s (linearPc s) k
    placeBytes s (memWrite mem (match translate s .execute a with | .next p => p | _ => a.toNat) b) (k + 1) r

/-- `s` with the table word's bytes as its program text at `CS:pc` (log 9): the memory holds them, the text is theirs,
no event is pending and TF is 0, so that the next step fetches and runs them. -/
def placeTableWord (s : State) (nbits w : Nat) : State :=
  { s with
    mem := placeBytes s s.mem 0 (tableBytes nbits w)
    text := ⟨linearPc s, maxInstrLen⟩
    eflags := s.eflags &&& ~~~(1#32 <<< 8)
    inputs := [] }

end Sys2Proof.Machine
end

