-- ==== Sys2Proof/Machine/Step.lean ====
section
/-! DEFINITION. One step of the machine. -/

namespace Sys2Proof.Machine

/-- One step: the boundary and the fetch (`nextInstr`), then the instruction's meaning. -/
def step (s : State) : Host.Outcome State Fault Refusal :=
  andThen (nextInstr s) fun a => exec a.2 a.1

/-- `s` with a table word's instruction where `step` fetches next (log 9). -/
def State.withFetchWord (s : State) (nbits w : Nat) : State := placeTableWord s nbits w

end Sys2Proof.Machine
end

