-- ==== Sys2Proof/WellFormed.lean ====
section
/-! DEFINITION. Which instruction terms an encoding exists for, in a given mode (30_encoding.md R72 to R94). -/

namespace Sys2Proof

/-- A displacement is present; mod 00 with this `r/m` or `base` means another form (30_encoding.md R84 to R86). -/
def Disp.present {w : Nat} : Disp w → Bool
  | .none => false
  | _ => true

/-- The memory form is one of the address size's own, and no field pattern that means another form
(30_encoding.md R84 to R86). -/
def MemForm.wellFormed (a : AddrSize) : MemForm → Bool
  | .mem16 rm d => a == .a16 && (rm != 6 || d.present)
  | .mem16Abs _ => a == .a16
  | .memBase rm d => a != .a16 && rm != 4 && (rm != 5 || d.present)
  | .memDisp _ => a != .a16
  | .memSib _ _ base d => a != .a16 && (base != 5 || d.present)
  | .memSibNoBase _ _ _ => a != .a16

/-- A register operand, or a memory operand of the address size. -/
def RM.wellFormed (a : AddrSize) : RM → Bool
  | .reg _ => true
  | .mem m => m.wellFormed a

/-- A REX byte exists in 64-bit mode only (30_encoding.md R81). -/
def Pfx.wellFormed (c : CodeCtx) (p : Pfx) : Bool := c.m64 || p.rex.isNone

/-- The two-byte form has no X, B, W (30_encoding.md R90); outside 64-bit mode stored R and X are 1, and so is the top
stored bit of vvvv in the two-byte form (R91). -/
def Vex.wellFormed (c : CodeCtx) (v : Vex) : Bool :=
  (v.three || (!v.x && !v.b && !v.w)) && (c.m64 || (!v.r && !v.x && (v.three || !v.vvvv.getLsbD 3)))

/-- An encoding of the instruction exists in the mode `c`: the operand size that chooses its row (30_encoding.md R94),
its mandatory and excluded prefixes (R79), VEX.L where the row fixes it (R93), vvvv = 1111b where it is reserved (R101),
one prefix of group 1 (R74). -/
def Instr.wellFormed (c : CodeCtx) : Instr → Bool
  | .smswRm16 p rm =>
    p.wellFormed c && operandSize c p.opsz p.w == .o16 && rm.wellFormed (addrSize c p.adsz)
  | .smswR32M16 p rm =>
    p.wellFormed c && operandSize c p.opsz p.w == .o32 && rm.wellFormed (addrSize c p.adsz)
  | .smswR64M16 p rm =>
    p.wellFormed c && operandSize c p.opsz p.w == .o64 && rm.wellFormed (addrSize c p.adsz)
  | .sqrtpd p _ rm => p.wellFormed c && p.opsz && rm.wellFormed (addrSize c p.adsz)
  | .vsqrtpdXmm v _ rm => v.wellFormed c && !v.l && v.vvvv == 0 && rm.wellFormed (addrSize c v.adsz)
  | .vsqrtpdYmm v _ rm => v.wellFormed c && v.l && v.vvvv == 0 && rm.wellFormed (addrSize c v.adsz)
  | .sqrtps p _ rm => p.wellFormed c && !p.opsz && rm.wellFormed (addrSize c p.adsz)
  | .vsqrtpsXmm v _ rm => v.wellFormed c && !v.l && v.vvvv == 0 && rm.wellFormed (addrSize c v.adsz)
  | .vsqrtpsYmm v _ rm => v.wellFormed c && v.l && v.vvvv == 0 && rm.wellFormed (addrSize c v.adsz)
  | .sqrtsd p _ rm => p.wellFormed c && !p.opsz && !p.lock && rm.wellFormed (addrSize c p.adsz)
  | .vsqrtsd v _ rm => v.wellFormed c && rm.wellFormed (addrSize c v.adsz)
  | .sqrtss p _ rm => p.wellFormed c && !p.opsz && !p.lock && rm.wellFormed (addrSize c p.adsz)
  | .vsqrtss v _ rm => v.wellFormed c && rm.wellFormed (addrSize c v.adsz)
  | .stc p => p.wellFormed c
  | .std p => p.wellFormed c
  | .sti p => p.wellFormed c
  | .stmxcsr p m => p.wellFormed c && !p.opsz && m.wellFormed (addrSize c p.adsz)
  | .vstmxcsr v m => v.wellFormed c && !v.l && v.vvvv == 0 && m.wellFormed (addrSize c v.adsz)
  | .stosM8 p => p.wellFormed c
  | .stosM16 p => p.wellFormed c && operandSize c p.opsz p.w == .o16
  | .stosM32 p => p.wellFormed c && operandSize c p.opsz p.w == .o32
  | .stosM64 p => p.wellFormed c && operandSize c p.opsz p.w == .o64
  | .stosb p => p.wellFormed c
  | .stosw p => p.wellFormed c && operandSize c p.opsz p.w == .o16
  | .stosd p => p.wellFormed c && operandSize c p.opsz p.w == .o32
  | .stosq p => p.wellFormed c && operandSize c p.opsz p.w == .o64
  | .str p rm => p.wellFormed c && rm.wellFormed (addrSize c p.adsz)

end Sys2Proof
end

