-- ==== Sys2Proof/Safety.lean ====
section
/-! DEFINITION. The terms claims use: what a good access is, where it lands, what every state keeps, what a safe run is. -/

namespace Sys2Proof.Machine

/-! ## Memory operands -/

/-- The linear addresses of the `n` bytes at `seg:off` (20_memory.md R50, R57, R58). -/
def operandAddrs (s : State) (name : SegName) (off : BitVec 64) (n : Nat) : List (BitVec 64) :=
  byteAddrs s (linearAddr s name off) n

/-- `Translate` answers a page fault at this address (20_memory.md R61). -/
def pageFaults (s : State) (kind : Access) (a : BitVec 64) : Bool :=
  cr0PG s && match pageOf s a with
    | none => false
    | some r => !r.present || pageDenies s kind r

/-- The physical address behind a linear one, faults apart (20_memory.md R61). -/
def physOf (s : State) (a : BitVec 64) : Nat :=
  if cr0PG s then match pageOf s a with
    | none => a.toNat
    | some r => r.phys + (a.toNat - r.lin)
  else a.toNat

/-- The physical addresses of the `n` bytes at `seg:off`, lowest linear address first. -/
def operandPhys (s : State) (name : SegName) (off : BitVec 64) (n : Nat) : List Nat :=
  (operandAddrs s name off n).map (physOf s)

/-- The operand can be accessed: no check of 20_memory.md R59 fails, no byte of the program text is written (R70), and
every byte is in the launch memory (R62). -/
def accessOk (s : State) (name : SegName) (off : BitVec 64) (n : Nat) (kind : Access)
    (rule : AccessRule) : Bool :=
  (segCheck s name off n kind rule).isNone &&
  (!in64 s || (operandAddrs s name off n).all canonical) &&
  (alignFault s (linearAddr s name off) n rule).isNone &&
  (operandAddrs s name off n).all (fun a => !pageFaults s kind a) &&
  (kind != .write || (operandPhys s name off n).all (fun p => !textCell s p)) &&
  (operandPhys s name off n).all (allocated s)

/-- The source of a square root can be read (41_sqrt.md R118, R128). -/
def sourceOk (w : Nat) (s : State) (e : AddrBits) (len : Nat) (rm : RM) (rule : AccessRule) : Bool :=
  match rm with
  | .reg _ => true
  | .mem m => accessOk s (operandSeg s e m) (effAddr s e len m) (w / 8) .read rule

/-- The source of a square root, `w` bits (41_sqrt.md R118). -/
def sourceValue (w : Nat) (s : State) (e : AddrBits) (len : Nat) (rm : RM) : BitVec w :=
  match rm with
  | .reg n => (readYmm s (regNum s e.b n)).setWidth w
  | .mem m =>
    leValue w ((operandPhys s (operandSeg s e m) (effAddr s e len m) (w / 8)).map (memRead s.mem))

/-! ## Addresses in exact arithmetic -/

/-- The address size in bits (30_encoding.md R89): in 64-bit mode 64, or 32 with 67; elsewhere 32 or 16, as CS.D says
and 67 switches. In real-address and virtual-8086 mode the default is 16 also with CS.D = 1: the model's choice, log 42. -/
def addrSizeBits (s : State) (adsz : Bool) : Nat :=
  if mode s = .mode64 then (if adsz then 32 else 64)
  else if (s.cs.d = true ∧ mode s ≠ .real ∧ mode s ≠ .v86) ↔ adsz = false then 32 else 16

/-- The register that three bits and an extension bit name; the extension counts in 64-bit mode only
(30_encoding.md R82). -/
def extendedReg (s : State) (ext : Bool) (n : BitVec 3) : BitVec 4 :=
  BitVec.ofNat 4 (n.toNat + if mode s = .mode64 ∧ ext = true then 8 else 0)

/-- A displacement as a signed number (30_encoding.md R87). -/
def dispInt {w : Nat} : Disp w → Int
  | .none => 0
  | .d8 v => v.toInt
  | .full v => v.toInt

/-- The registers that the rows of 30_encoding.md R84 add: BX + SI, BX + DI, BP + SI, BP + DI, SI, DI, BP, BX. -/
def rowRegs16 : List (List (BitVec 4)) := [[3, 6], [3, 7], [5, 6], [5, 7], [6], [7], [5], [3]]

/-- Index times scale; register number 4 means no index (30_encoding.md R86). -/
def scaledIndex (s : State) (e : AddrBits) (scale : BitVec 2) (index : BitVec 3) : Int :=
  if extendedReg s e.x index = 4 then 0 else ((readX s (extendedReg s e.x index)).toNat : Int) * 2 ^ scale.toNat

/-- Base plus index times scale plus displacement, not yet cut to the address size (20_memory.md R55, 30_encoding.md R84
to R87); a displacement alone is relative to the next instruction in 64-bit mode. -/
def exactAddr (s : State) (e : AddrBits) (len : Nat) : MemForm → Int
  | .mem16 rm d => ((rowRegs16.getD rm.toNat []).map fun i => ((readX s i).toNat : Int)).sum + dispInt d
  | .mem16Abs d => d.toNat
  | .memBase rm d => (readX s (extendedReg s e.b rm)).toNat + dispInt d
  | .memDisp d => (if mode s = .mode64 then (s.pc.toNat + len : Int) else 0) + d.toInt
  | .memSib sc ix bs d => (readX s (extendedReg s e.b bs)).toNat + scaledIndex s e sc ix + dispInt d
  | .memSibNoBase sc ix d => scaledIndex s e sc ix + d.toInt

/-- The width that an address is cut to: 16 for the forms of 30_encoding.md R84, else the address size
(20_memory.md R55). -/
def formBits (s : State) (e : AddrBits) : MemForm → Nat
  | .mem16 _ _ => 16
  | .mem16Abs _ => 16
  | .memBase _ _ => addrSizeBits s e.adsz
  | .memDisp _ => addrSizeBits s e.adsz
  | .memSib _ _ _ _ => addrSizeBits s e.adsz
  | .memSibNoBase _ _ _ => addrSizeBits s e.adsz

/-- The base of the operand is (R/E)SP or (R/E)BP, so that its default segment is SS (20_memory.md R56, 30_encoding.md R84,
R86). -/
def stackBased (s : State) (e : AddrBits) : MemForm → Prop
  | .mem16 rm _ => rm = 2 ∨ rm = 3 ∨ rm = 6
  | .mem16Abs _ => False
  | .memBase rm _ => extendedReg s e.b rm = 4 ∨ extendedReg s e.b rm = 5
  | .memDisp _ => False
  | .memSib _ _ bs _ => extendedReg s e.b bs = 4 ∨ extendedReg s e.b bs = 5
  | .memSibNoBase _ _ _ => False

/-! ## What an instruction asks of the state -/

/-- One access to memory: segment, offset, bytes, read or write, and what the instruction's own rule adds. -/
structure MemAccess where
  seg : SegName
  off : BitVec 64
  size : Nat
  kind : Access
  rule : AccessRule
deriving DecidableEq, Repr

/-- The access of an `r/m` operand of `size` bytes. -/
def rmAccess (s : State) (e : AddrBits) (len size : Nat) (kind : Access) (rule : AccessRule) : RM → Option MemAccess
  | .reg _ => none
  | .mem m => some ⟨operandSeg s e m, effAddr s e len m, size, kind, rule⟩

/-- The access of STOS of `size` bytes (44_stos.md R163, R164). -/
def stosAccess (s : State) (p : Pfx) (size : Nat) : Option MemAccess :=
  some ⟨.es, addrReg s (addrSize (codeCtx s) p.adsz) 7, size, .write, .plain⟩

/-- The memory access of an instruction (20_memory.md R48). -/
def memAccess (i : Instr) (s : State) : Option MemAccess :=
  match i with
  | .smswRm16 p rm => rmAccess s (addrBitsOfPfx p) (instrLen i) 2 .write .plain rm
  | .smswR32M16 p rm => rmAccess s (addrBitsOfPfx p) (instrLen i) 2 .write .plain rm
  | .smswR64M16 p rm => rmAccess s (addrBitsOfPfx p) (instrLen i) 2 .write .plain rm
  | .sqrtpd p _ rm => rmAccess s (addrBitsOfPfx p) (instrLen i) 16 .read .packed16 rm
  | .vsqrtpdXmm v _ rm => rmAccess s (addrBitsOfVex v) (instrLen i) 16 .read .plain rm
  | .vsqrtpdYmm v _ rm => rmAccess s (addrBitsOfVex v) (instrLen i) 32 .read .plain rm
  | .sqrtps p _ rm => rmAccess s (addrBitsOfPfx p) (instrLen i) 16 .read .packed16 rm
  | .vsqrtpsXmm v _ rm => rmAccess s (addrBitsOfVex v) (instrLen i) 16 .read .plain rm
  | .vsqrtpsYmm v _ rm => rmAccess s (addrBitsOfVex v) (instrLen i) 32 .read .plain rm
  | .sqrtsd p _ rm => rmAccess s (addrBitsOfPfx p) (instrLen i) 8 .read .plain rm
  | .vsqrtsd v _ rm => rmAccess s (addrBitsOfVex v) (instrLen i) 8 .read .plain rm
  | .sqrtss p _ rm => rmAccess s (addrBitsOfPfx p) (instrLen i) 4 .read .plain rm
  | .vsqrtss v _ rm => rmAccess s (addrBitsOfVex v) (instrLen i) 4 .read .plain rm
  | .stc _ => none
  | .std _ => none
  | .sti _ => none
  | .stmxcsr p m => rmAccess s (addrBitsOfPfx p) (instrLen i) 4 .write .mxcsrStore (.mem m)
  | .vstmxcsr v m => rmAccess s (addrBitsOfVex v) (instrLen i) 4 .write .mxcsrStore (.mem m)
  | .stosM8 p => stosAccess s p 1
  | .stosM16 p => stosAccess s p 2
  | .stosM32 p => stosAccess s p 4
  | .stosM64 p => stosAccess s p 8
  | .stosb p => stosAccess s p 1
  | .stosw p => stosAccess s p 2
  | .stosd p => stosAccess s p 4
  | .stosq p => stosAccess s p 8
  | .str p rm => rmAccess s (addrBitsOfPfx p) (instrLen i) 2 .write .strStore rm

/-- A legacy SSE form passes the checks of 41_sqrt.md R127; `has` is the feature flag of its row. -/
def legacyAvailable (s : State) (lock has : Bool) : Bool :=
  !lock && !cr0EM s && cr4OSFXSR s && has && !cr0TS s

/-- A VEX form passes the checks of 41_sqrt.md R127; `reserved` says that a field that must be 1111b or 0 is not. -/
def vexAvailable (s : State) (reserved : Bool) : Bool :=
  !realOrV86 s && s.features.hasAvx && cr4OSXSAVE s && xcr0SseAvx s == 3 && !reserved && !cr0TS s

/-- The instruction passes every check made before an operand is read (30_encoding.md R75, 41_sqrt.md R127,
42_flag_set.md R145, 43_stmxcsr.md R158, 45_str.md R178). -/
def available (i : Instr) (s : State) : Bool :=
  match i with
  | .smswRm16 p _ => !p.lock
  | .smswR32M16 p _ => !p.lock
  | .smswR64M16 p _ => !p.lock
  | .sqrtpd p _ _ => legacyAvailable s p.lock s.features.hasSse2
  | .vsqrtpdXmm v _ _ => vexAvailable s (v.vvvv != 0)
  | .vsqrtpdYmm v _ _ => vexAvailable s (v.vvvv != 0)
  | .sqrtps p _ _ => legacyAvailable s p.lock s.features.hasSse
  | .vsqrtpsXmm v _ _ => vexAvailable s (v.vvvv != 0)
  | .vsqrtpsYmm v _ _ => vexAvailable s (v.vvvv != 0)
  | .sqrtsd p _ _ => legacyAvailable s p.lock s.features.hasSse2
  | .vsqrtsd _ _ _ => vexAvailable s false
  | .sqrtss p _ _ => legacyAvailable s p.lock s.features.hasSse
  | .vsqrtss _ _ _ => vexAvailable s false
  | .stc p => !p.lock
  | .std p => !p.lock
  | .sti p => !p.lock && stiActionOf s != .fault
  | .stmxcsr p _ => legacyAvailable s p.lock s.features.hasSse
  | .vstmxcsr v _ => vexAvailable s (v.l || v.vvvv != 0)
  | .stosM8 p => !p.lock
  | .stosM16 p => !p.lock
  | .stosM32 p => !p.lock
  | .stosM64 p => !p.lock
  | .stosb p => !p.lock
  | .stosw p => !p.lock
  | .stosd p => !p.lock
  | .stosq p => !p.lock
  | .str p _ => !p.lock && !realOrV86 s

/-- The instruction has a LOCK prefix (30_encoding.md R75); no VEX form can have one (R92). -/
def locked (i : Instr) : Bool :=
  match i with
  | .smswRm16 p _ => p.lock
  | .smswR32M16 p _ => p.lock
  | .smswR64M16 p _ => p.lock
  | .sqrtpd p _ _ => p.lock
  | .vsqrtpdXmm _ _ _ => false
  | .vsqrtpdYmm _ _ _ => false
  | .sqrtps p _ _ => p.lock
  | .vsqrtpsXmm _ _ _ => false
  | .vsqrtpsYmm _ _ _ => false
  | .sqrtsd p _ _ => p.lock
  | .vsqrtsd _ _ _ => false
  | .sqrtss p _ _ => p.lock
  | .vsqrtss _ _ _ => false
  | .stc p => p.lock
  | .std p => p.lock
  | .sti p => p.lock
  | .stmxcsr p _ => p.lock
  | .vstmxcsr _ _ => false
  | .stosM8 p => p.lock
  | .stosM16 p => p.lock
  | .stosM32 p => p.lock
  | .stosM64 p => p.lock
  | .stosb p => p.lock
  | .stosw p => p.lock
  | .stosd p => p.lock
  | .stosq p => p.lock
  | .str p _ => p.lock

/-- The flags of `n` double-precision lanes of a source, in a state's rounding and DAZ (41_sqrt.md R122). -/
def laneFlags64 {w : Nat} (s : State) (v : BitVec w) (n : Nat) : List FpFlags :=
  (List.range n).map fun k => (sqrt64 (v.extractLsb' (64 * k) 64) (mxcsrRC s) (mxcsrDAZ s)).2

/-- The flags of `n` single-precision lanes of a source (41_sqrt.md R122). -/
def laneFlags32 {w : Nat} (s : State) (v : BitVec w) (n : Nat) : List FpFlags :=
  (List.range n).map fun k => (sqrt32 (v.extractLsb' (32 * k) 32) (mxcsrRC s) (mxcsrDAZ s)).2

/-- The flags of every lane that a square root computes; none for any other instruction (41_sqrt.md R126). -/
def laneFlags (i : Instr) (s : State) : List FpFlags :=
  match i with
  | .sqrtpd p _ rm => laneFlags64 s (sourceValue 128 s (addrBitsOfPfx p) (instrLen i) rm) 2
  | .vsqrtpdXmm v _ rm => laneFlags64 s (sourceValue 128 s (addrBitsOfVex v) (instrLen i) rm) 2
  | .vsqrtpdYmm v _ rm => laneFlags64 s (sourceValue 256 s (addrBitsOfVex v) (instrLen i) rm) 4
  | .sqrtps p _ rm => laneFlags32 s (sourceValue 128 s (addrBitsOfPfx p) (instrLen i) rm) 4
  | .vsqrtpsXmm v _ rm => laneFlags32 s (sourceValue 128 s (addrBitsOfVex v) (instrLen i) rm) 4
  | .vsqrtpsYmm v _ rm => laneFlags32 s (sourceValue 256 s (addrBitsOfVex v) (instrLen i) rm) 8
  | .sqrtsd p _ rm => laneFlags64 s (sourceValue 64 s (addrBitsOfPfx p) (instrLen i) rm) 1
  | .vsqrtsd v _ rm => laneFlags64 s (sourceValue 64 s (addrBitsOfVex v) (instrLen i) rm) 1
  | .sqrtss p _ rm => laneFlags32 s (sourceValue 32 s (addrBitsOfPfx p) (instrLen i) rm) 1
  | .vsqrtss v _ rm => laneFlags32 s (sourceValue 32 s (addrBitsOfVex v) (instrLen i) rm) 1
  | .smswRm16 _ _ => []
  | .smswR32M16 _ _ => []
  | .smswR64M16 _ _ => []
  | .stc _ => []
  | .std _ => []
  | .sti _ => []
  | .stmxcsr _ _ => []
  | .vstmxcsr _ _ => []
  | .stosM8 _ => []
  | .stosM16 _ => []
  | .stosM32 _ => []
  | .stosM64 _ => []
  | .stosb _ => []
  | .stosw _ => []
  | .stosd _ => []
  | .stosq _ => []
  | .str _ _ => []

/-- Every condition of a lane is masked; a precision condition counts only in a lane with no invalid one
(41_sqrt.md R126). -/
def masked (s : State) (f : FpFlags) : Bool :=
  (!f.i || mxcsrIM s) && (!f.d || mxcsrDM s) && (!f.p || f.i || mxcsrPM s)

/-- The exceptions an instruction can raise: the table of 60_exceptions.md R186. -/
def canRaise (i : Instr) : List Exc :=
  match i with
  | .smswRm16 _ (.reg _) => [.ud]
  | .smswRm16 _ (.mem _) => [.ud, .ss, .gp, .pf, .ac]
  | .smswR32M16 _ (.reg _) => [.ud]
  | .smswR32M16 _ (.mem _) => [.ud, .ss, .gp, .pf, .ac]
  | .smswR64M16 _ (.reg _) => [.ud]
  | .smswR64M16 _ (.mem _) => [.ud, .ss, .gp, .pf, .ac]
  | .sqrtpd _ _ (.reg _) => [.ud, .nm, .xm]
  | .sqrtpd _ _ (.mem _) => [.ud, .nm, .ss, .gp, .pf, .xm]
  | .vsqrtpdXmm _ _ (.reg _) => [.ud, .nm, .xm]
  | .vsqrtpdXmm _ _ (.mem _) => [.ud, .nm, .ss, .gp, .pf, .xm]
  | .vsqrtpdYmm _ _ (.reg _) => [.ud, .nm, .xm]
  | .vsqrtpdYmm _ _ (.mem _) => [.ud, .nm, .ss, .gp, .pf, .xm]
  | .sqrtps _ _ (.reg _) => [.ud, .nm, .xm]
  | .sqrtps _ _ (.mem _) => [.ud, .nm, .ss, .gp, .pf, .xm]
  | .vsqrtpsXmm _ _ (.reg _) => [.ud, .nm, .xm]
  | .vsqrtpsXmm _ _ (.mem _) => [.ud, .nm, .ss, .gp, .pf, .xm]
  | .vsqrtpsYmm _ _ (.reg _) => [.ud, .nm, .xm]
  | .vsqrtpsYmm _ _ (.mem _) => [.ud, .nm, .ss, .gp, .pf, .xm]
  | .sqrtsd _ _ (.reg _) => [.ud, .nm, .xm]
  | .sqrtsd _ _ (.mem _) => [.ud, .nm, .ss, .gp, .pf, .ac, .xm]
  | .vsqrtsd _ _ (.reg _) => [.ud, .nm, .xm]
  | .vsqrtsd _ _ (.mem _) => [.ud, .nm, .ss, .gp, .pf, .ac, .xm]
  | .sqrtss _ _ (.reg _) => [.ud, .nm, .xm]
  | .sqrtss _ _ (.mem _) => [.ud, .nm, .ss, .gp, .pf, .ac, .xm]
  | .vsqrtss _ _ (.reg _) => [.ud, .nm, .xm]
  | .vsqrtss _ _ (.mem _) => [.ud, .nm, .ss, .gp, .pf, .ac, .xm]
  | .stc _ => [.ud]
  | .std _ => [.ud]
  | .sti _ => [.ud, .gp]
  | .stmxcsr _ _ => [.ud, .nm, .ss, .gp, .pf, .ac]
  | .vstmxcsr _ _ => [.ud, .nm, .ss, .gp, .pf, .ac]
  | .stosM8 _ => [.ud, .gp, .pf]
  | .stosM16 _ => [.ud, .gp, .pf, .ac]
  | .stosM32 _ => [.ud, .gp, .pf, .ac]
  | .stosM64 _ => [.ud, .gp, .pf, .ac]
  | .stosb _ => [.ud, .gp, .pf]
  | .stosw _ => [.ud, .gp, .pf, .ac]
  | .stosd _ => [.ud, .gp, .pf, .ac]
  | .stosq _ => [.ud, .gp, .pf, .ac]
  | .str _ (.reg _) => [.ud]
  | .str _ (.mem _) => [.ud, .ss, .gp, .pf, .ac]

/-! ## The value of a floating-point number -/

/-- The exact value of an encoding that is neither negative nor an infinity nor a NaN (41_sqrt.md R121). -/
def FpFormat.value (f : FpFormat) (v : Nat) : ℚ :=
  if f.exp v = 0 then (f.frac v : ℚ) * 2 ^ ((1 : Int) - f.bias - f.fracBits)
  else ((2 ^ f.fracBits + f.frac v : Nat) : ℚ) * 2 ^ ((f.exp v : Int) - f.bias - f.fracBits)

/-- `r` is the value of the format next to the exact root of `x` in the direction `rc` (41_sqrt.md R124). `r + 1` and
`r - 1` encode the neighbours of a positive `r`; the exact root lies below the midpoint of `r` and `r + 1` exactly when
its square is below the midpoint's. -/
def FpFormat.isRoundedRoot (f : FpFormat) (rc : BitVec 2) (x : ℚ) (r : Nat) : Prop :=
  if rc = 0 then (f.value (r - 1) + f.value r) ^ 2 < 4 * x ∧ 4 * x < (f.value r + f.value (r + 1)) ^ 2
  else if rc = 2 then f.value (r - 1) ^ 2 < x ∧ x ≤ f.value r ^ 2
  else f.value r ^ 2 ≤ x ∧ x < f.value (r + 1) ^ 2

/-! ## What every state keeps -/

/-- The bits of EFLAGS that are fixed: bit 1 is 1, bits 3, 5, 15 and 31:22 are 0 (10_state.md R23). -/
def eflagsReserved (v : BitVec 32) : Bool := (v &&& 0xFFC0802A#32) == 0x00000002#32

/-- The invariant: the store is in canonical form, the reserved bits of EFLAGS, MXCSR and CR0 hold what they must
(10_state.md R23, R32, R26). -/
def inv (s : State) : Bool :=
  Memory.wf s.mem && eflagsReserved s.eflags && s.mxcsr.extractLsb' 16 16 == 0 && s.cr0.extractLsb' 32 32 == 0

/-- The registers that no instruction in scope writes (10_state.md R28, R30, R31, R34, R35, R36, R40, R45), and the
parameters of the run, are the same in two states. -/
def sameConstants (s t : State) : Prop :=
  t.cr0 = s.cr0 ∧ t.cr2 = s.cr2 ∧ t.cr3 = s.cr3 ∧ t.cr4 = s.cr4 ∧ t.xcr0 = s.xcr0 ∧ t.efer = s.efer ∧
  t.cs = s.cs ∧ t.ss = s.ss ∧ t.ds = s.ds ∧ t.es = s.es ∧ t.fs = s.fs ∧ t.gs = s.gs ∧
  t.tr = s.tr ∧ t.ldtr = s.ldtr ∧ t.gdtr = s.gdtr ∧ t.idtr = s.idtr ∧ t.cpl = s.cpl ∧
  t.alloc = s.alloc ∧ t.pages = s.pages ∧ t.features = s.features ∧ t.text = s.text

/-! ## Frames -/

/-- Every general register reads as before. -/
def keepsGprs (s t : State) : Prop := ∀ j, readX t j = readX s j

/-- Every vector register reads as before. -/
def keepsYmms (s t : State) : Prop := ∀ j, readYmm t j = readYmm s j

/-- Every byte of memory at none of the addresses `ps` reads as before. -/
def keepsOutside (s t : State) (ps : List Nat) : Prop := ∀ a, a ∉ ps → memRead t.mem a = memRead s.mem a

/-- The addresses `ps` hold `bytes`, in order; where one address stands twice the later byte counts. -/
def holdsAt (t : State) (ps : List Nat) (bytes : List Byte) : Prop :=
  ps.length = bytes.length ∧
    ∀ (k p : Nat) (b : Byte), ps[k]? = some p → bytes[k]? = some b → (∀ j : Nat, k < j → ps[j]? ≠ some p) →
      memRead t.mem p = b

/-- The end of a completed instruction: `pc` advanced by its length, the STI delay over, every register that no
instruction writes and every pending input as before (00_scope.md R14, 42_flag_set.md R152, 10_state.md R45). -/
def completes (i : Instr) (s t : State) : Prop :=
  t.pc = nextPc s (instrLen i) ∧ t.stiShadow = false ∧ sameConstants s t ∧ t.inputs = s.inputs

/-- An instruction that wrote the general register `dst` only. -/
def writesGpr (i : Instr) (dst : BitVec 4) (s t : State) : Prop :=
  (∀ j, j ≠ dst → readX t j = readX s j) ∧ keepsYmms s t ∧ keepsOutside s t [] ∧ t.eflags = s.eflags ∧
    t.mxcsr = s.mxcsr ∧ completes i s t

/-- An instruction that wrote `bytes` at the physical addresses `ps` and no register. -/
def writesBytes (i : Instr) (ps : List Nat) (bytes : List Byte) (s t : State) : Prop :=
  holdsAt t ps bytes ∧ keepsOutside s t ps ∧ keepsGprs s t ∧ keepsYmms s t ∧ t.eflags = s.eflags ∧
    t.mxcsr = s.mxcsr ∧ completes i s t

/-- An instruction that set the EFLAGS bit `bit` only (10_state.md R24). -/
def setsFlag (bit : Nat) (s t : State) : Prop :=
  t.eflags.getLsbD bit = true ∧ (∀ k, k ≠ bit → t.eflags.getLsbD k = s.eflags.getLsbD k) ∧ keepsGprs s t ∧
    keepsYmms s t ∧ keepsOutside s t [] ∧ t.mxcsr = s.mxcsr

/-- A square root that wrote the vector register `dst` and the sticky flags of its lanes only: IE, DE, PE are MXCSR bits
0, 1, 5 (41_sqrt.md R126). -/
def writesRoot (i : Instr) (dst : BitVec 4) (s t : State) : Prop :=
  (∀ j, j ≠ dst → readYmm t j = readYmm s j) ∧ keepsGprs s t ∧ keepsOutside s t [] ∧ t.eflags = s.eflags ∧
    t.mxcsr.getLsbD 0 = (s.mxcsr.getLsbD 0 || (laneFlags i s).any FpFlags.i) ∧
    t.mxcsr.getLsbD 1 = (s.mxcsr.getLsbD 1 || (laneFlags i s).any FpFlags.d) ∧
    t.mxcsr.getLsbD 5 = (s.mxcsr.getLsbD 5 || (laneFlags i s).any FpFlags.p) ∧
    (∀ k, k ≠ 0 → k ≠ 1 → k ≠ 5 → t.mxcsr.getLsbD k = s.mxcsr.getLsbD k) ∧ completes i s t

/-! ## Runs -/

/-- `k` steps from `s` end in `t`: no fault, no interrupt, no refusal on the way (60_exceptions.md R188, R198). -/
def runsTo (k : Nat) (s t : State) : Prop := Sys2Proof.core.run k s = .next t

/-- The run of `k` steps from `s` is safe: it reaches the end of the program text (70_reset_and_hazards.md R216). -/
def safeRun (k : Nat) (s : State) : Prop := ∃ t, runsTo k s t ∧ atEnd t = true

end Sys2Proof.Machine
end

