-- ==== Sys2Proof/Certificates/Slice0/Obligations.lean ====
section
/-! DEFINITION. The statements for the provers. A sentence of the spec that carries its own mark "from general
knowledge" or "decision" is cited as it stands; a clause that rests on a choice of the model names the log entry. -/

open Sys2Proof Sys2Proof.Machine

/-! ## Encoding -/

/-- 30_encoding.md R72 to R100: the decoder reads every encodable instruction back from its own words, whatever bytes
follow, in every mode; the no-operand mnemonics of STOS come back as the explicit forms (R107; the choice of log 25). -/
def Obligations.DecodeReadsEncodeBack : Prop :=
  ∀ (c : CodeCtx) (i : Instr) (rest : List Byte), i.wellFormed c = true →
    decode c (encode i ++ rest) = .ok i.canonical rest

/-- 30_encoding.md R100, R104, R74: whatever the decoder answers is an instruction the encoding tables have, and the bytes
it takes up are that instruction's own words, but for the order of the legacy prefixes; bytes that are no such words are
never read as an instruction. -/
def Obligations.DecodedIsEncodable : Prop :=
  ∀ (c : CodeCtx) (bs rest : List Byte) (i : Instr), decode c bs = .ok i rest →
    i.wellFormed c = true ∧ i.canonical = i ∧
    ∃ pre pre' tail, bs = pre ++ tail ++ rest ∧ encode i = pre' ++ tail ∧ pre.Perm pre' ∧
      (∀ b ∈ pre, isLegacyPrefix b = true) ∧ (pre ++ tail).length = instrLen i

/-- 30_encoding.md R72: no instruction is longer than 13 bytes, and one without LOCK never longer than 12, so the limit
of 15 is not reached. -/
def Obligations.InstructionLengthBound : Prop :=
  ∀ (c : CodeCtx) (i : Instr), i.wellFormed c = true →
    1 ≤ instrLen i ∧ instrLen i ≤ 13 ∧ (locked i = false → instrLen i ≤ 12)

/-- 30_encoding.md R74: legacy prefixes mean the same in any order. -/
def Obligations.PrefixOrderIrrelevant : Prop :=
  ∀ (c : CodeCtx) (pre pre' rest : List Byte), pre.Perm pre' → (∀ b ∈ pre, isLegacyPrefix b = true) →
    decode c (pre ++ rest) = decode c (pre' ++ rest)

/-- 30_encoding.md R92, R91: with at most one prefix of each group read (R74), C4 or C5 after F0, F2, F3 or 66 is #UD,
whatever follows in 64-bit mode, and outside it when bits 7:6 of the next byte are 11; in 64-bit mode so is C4 or C5
after a REX byte. -/
def Obligations.VexAfterForbiddenPrefix : Prop :=
  ∀ (c : CodeCtx) (pre rest : List Byte) (b : Byte), (b = 0xC4 ∨ b = 0xC5) →
    (∃ sc, scanPrefixes Scan.empty (pre ++ [b]) = .done sc [b]) →
    ((∃ p ∈ pre, p = 0xF0 ∨ p = 0xF2 ∨ p = 0xF3 ∨ p = 0x66) →
      (c.m64 = true → decode c (pre ++ b :: rest) = .ud) ∧
      (c.m64 = false → ∀ b1 : Byte, b1.extractLsb' 6 2 = 3 → decode c (pre ++ b :: b1 :: rest) = .ud)) ∧
    (c.m64 = true → ∀ r : BitVec 4, decode c (pre ++ (0x4#4 ++ r) :: b :: rest) = .ud)

/-- A few words of the worked examples of spec/ decode to the instruction they stand for (40_smsw.md R109, R112,
41_sqrt.md R129, R131, R138, 42_flag_set.md R142, 43_stmxcsr.md R155, R156, 44_stos.md R169, 45_str.md R175). -/
def Obligations.ExampleWordsDecode : Prop :=
  decode ⟨false, true⟩ [0x66, 0x0F, 0x01, 0xE0] = .ok (.smswRm16 ⟨false, none, true, false, none⟩ (.reg 0)) [] ∧
  decode ⟨true, false⟩ [0x49, 0x0F, 0x01, 0xE7] =
    .ok (.smswR64M16 ⟨false, none, false, false, some ⟨true, false, false, true⟩⟩ (.reg 7)) [] ∧
  decode ⟨true, false⟩ [0x66, 0x0F, 0x51, 0xC1] = .ok (.sqrtpd ⟨false, none, true, false, none⟩ 0 (.reg 1)) [] ∧
  decode ⟨true, false⟩ [0xC5, 0xFD, 0x51, 0xC1] =
    .ok (.vsqrtpdYmm ⟨none, false, false, false, false, false, false, 0, true⟩ 0 (.reg 1)) [] ∧
  decode ⟨true, false⟩ [0xC5, 0xEA, 0x51, 0xC1] =
    .ok (.vsqrtss ⟨none, false, false, false, false, false, false, 2, false⟩ 0 (.reg 1)) [] ∧
  decode ⟨false, false⟩ [0xF9] = .ok (.stc ⟨false, none, false, false, none⟩) [] ∧
  decode ⟨false, true⟩ [0x0F, 0xAE, 0x18] = .ok (.stmxcsr ⟨false, none, false, false, none⟩ (.memBase 0 .none)) [] ∧
  decode ⟨false, true⟩ [0xC5, 0xF8, 0xAE, 0x18] =
    .ok (.vstmxcsr ⟨none, false, false, false, false, false, false, 0, false⟩ (.memBase 0 .none)) [] ∧
  decode ⟨true, false⟩ [0x48, 0xAB] =
    .ok (.stosM64 ⟨false, none, false, false, some ⟨true, false, false, false⟩⟩) [] ∧
  decode ⟨false, true⟩ [0x0F, 0x00, 0xC8] = .ok (.str ⟨false, none, false, false, none⟩ (.reg 0)) []

/-! ## Memory -/

/-- 20_memory.md R49, R50: the bytes of a value of `n` bytes, least significant first, read back as the value; byte `k`
is bits 8k+7 to 8k. -/
def Obligations.LittleEndianBytes : Prop :=
  ∀ (n : Nat) (v : BitVec (8 * n)), leValue (8 * n) (leBytes n v) = v ∧
    ∀ k : Nat, k < n → (leBytes n v)[k]? = some (v.extractLsb' (8 * k) 8)

/-- 20_memory.md R49, R50, R64: after a completed store a load of any part of it, at the bytes' own addresses, gives those
bytes; the operand's bytes lie at distinct physical addresses. -/
def Obligations.StoreThenLoadPart : Prop :=
  ∀ (s t : State) (g : SegName) (off : BitVec 64) (bytes : List Byte) (rule : AccessRule) (k n : Nat),
    Memory.wf s.mem = true → segWrite s g off bytes rule = .next t → k + n ≤ bytes.length →
    (operandPhys s g off bytes.length).Nodup →
    accessOk t g (off + BitVec.ofNat 64 k) n .read .plain = true →
    segRead t g (off + BitVec.ofNat 64 k) n .plain = .next ((bytes.drop k).take n)

/-- Four clauses. 20_memory.md R48, R50, R54: an instruction changes no byte of memory but those it stores to, every other
reads as before. R57, R58, 10_state.md R35: byte `k` of an operand at `seg:off` has the linear address base plus offset
plus `k`: modulo 2^64 in 64-bit mode, with the base of FS or GS and 0 for the others; else modulo 2^32, with the selector
times 16 in real-address and virtual-8086 mode and the hidden base in the other modes (CS keeps the base of the reset
table in real-address mode as long as it holds selector and base of that table: log 21); with paging off (R61) it is
the physical address too. R55, 30_encoding.md R84 to R87, R89: the offset of an `r/m` operand, form by form, is the exact
sum of base, scaled index and displacement (with the next instruction's address for a displacement alone in 64-bit mode)
cut to the address size, and the index of STOS is register 7 cut to it. R56, 30_encoding.md R76: the segment is the
override, else SS for a base of SP or BP and DS for any other; in 64-bit mode an override to ES, CS, SS or DS is ignored
(also for the choice of #SS or #GP: log 20). That the address size defaults to 16 in real-address and virtual-8086 mode
with CS.D = 1, where R89 as written gives 32, is no rule's but the model's choice: log 42. -/
def Obligations.OnlyStoredBytesChange : Prop :=
  (∀ (i : Instr) (s t : State), Memory.wf s.mem = true → exec i s = .next t →
    keepsOutside s t (match memAccess i s with
      | some a => if a.kind = .write then operandPhys s a.seg a.off a.size else []
      | none => [])) ∧
  (∀ (s : State) (g : SegName) (off : BitVec 64) (n k : Nat), k < n →
    (operandAddrs s g off n)[k]?.map BitVec.toNat = some
      (if mode s = .mode64 then
        ((if g = .fs then s.fs.base.toNat else if g = .gs then s.gs.base.toNat else 0) + off.toNat + k) % 2 ^ 64
      else if mode s = .real ∧ g = .cs ∧ s.cs.sel = 0xF000 ∧ s.cs.base = 0xFFFF0000 then
        (0xFFFF0000 + off.toNat + k) % 2 ^ 32
      else if mode s = .real ∨ mode s = .v86 then ((segReg s g).sel.toNat * 16 + off.toNat + k) % 2 ^ 32
      else ((segReg s g).base.toNat + off.toNat + k) % 2 ^ 32) ∧
    (cr0PG s = false → operandPhys s g off n = (operandAddrs s g off n).map BitVec.toNat)) ∧
  (∀ (s : State) (e : AddrBits) (len : Nat) (m : MemForm),
    ((effAddr s e len m).toNat : Int) = exactAddr s e len m % 2 ^ formBits s e m ∧
    (addrReg s (addrSize (codeCtx s) e.adsz) 7).toNat = (readX s 7).toNat % 2 ^ addrSizeBits s e.adsz) ∧
  (∀ (s : State) (e : AddrBits) (m : MemForm),
    (∀ g, e.seg = some g → (mode s ≠ .mode64 ∨ g = .fs ∨ g = .gs) → operandSeg s e m = g) ∧
    ((e.seg = none ∨ (mode s = .mode64 ∧ ∃ g ∈ [SegName.es, .cs, .ss, .ds], e.seg = some g)) →
      (stackBased s e m → operandSeg s e m = .ss) ∧ (¬ stackBased s e m → operandSeg s e m = .ds)))

/-! ## STC, STD, STI -/

/-- 42_flag_set.md R142: STC sets CF, changes no other flag, no register and no byte, and advances `pc`. -/
def Obligations.StcSetsCarryOnly : Prop :=
  ∀ (p : Pfx) (s : State), p.lock = false →
    ∃ t, exec (.stc p) s = .next t ∧ setsFlag 0 s t ∧ completes (.stc p) s t

/-- 42_flag_set.md R143: STD sets DF, changes no other flag, no register and no byte, and advances `pc`. -/
def Obligations.StdSetsDirectionOnly : Prop :=
  ∀ (p : Pfx) (s : State), p.lock = false →
    ∃ t, exec (.std p) s = .next t ∧ setsFlag 10 s t ∧ completes (.std p) s t

/-- 42_flag_set.md R150 (ASSUMED, G22, log 12), R147, R151: in real-address mode, with CPL at most IOPL, and in
virtual-8086 mode with IOPL 3, STI sets IF and no other flag; `sti_shadow` is set exactly when IF was 0. -/
def Obligations.StiSetsInterruptFlag : Prop :=
  ∀ (p : Pfx) (s : State), p.lock = false →
    (cr0PE s = false ∨ (cr0PE s = true ∧ flagVM s = false ∧ currentCpl s ≤ flagIOPL s) ∨
      (cr0PE s = true ∧ flagVM s = true ∧ flagIOPL s = 3)) →
    ∃ t, exec (.sti p) s = .next t ∧ setsFlag 9 s t ∧ t.pc = nextPc s (instrLen (.sti p)) ∧
      sameConstants s t ∧ t.inputs = s.inputs ∧ t.stiShadow = !flagIF s

/-- 42_flag_set.md R148 item 2 with R150's condition VIP = 0 (ASSUMED, G22, log 12): in protected mode with PVI, CPL 3 and
IOPL below 3, and in virtual-8086 mode with VME and IOPL below 3, STI sets VIF and leaves IF unaffected. -/
def Obligations.StiSetsVirtualInterruptFlag : Prop :=
  ∀ (p : Pfx) (s : State), p.lock = false → cr0PE s = true → flagIOPL s ≠ 3 → flagVIP s = false →
    ((flagVM s = false ∧ currentCpl s = 3 ∧ cr4PVI s = true) ∨ (flagVM s = true ∧ cr4VME s = true)) →
    ∃ t, exec (.sti p) s = .next t ∧ setsFlag 19 s t ∧ completes (.sti p) s t

/-- 42_flag_set.md R150 (ASSUMED, G22, log 12), R147: the #GP(0) rows of the table; nothing changes. -/
def Obligations.StiWithoutPrivilegeFaults : Prop :=
  ∀ (p : Pfx) (s : State), p.lock = false → cr0PE s = true →
    ((flagVM s = false ∧ flagIOPL s < currentCpl s ∧
        (currentCpl s ≠ 3 ∨ cr4PVI s = false ∨ flagVIP s = true)) ∨
      (flagVM s = true ∧ flagIOPL s ≠ 3 ∧ (flagVIP s = true ∨ cr4VME s = false))) →
    ∃ left, exec (.sti p) s = .fault (.exception .gp (some 0) left) ∧ left = faulted s

/-- 42_flag_set.md R151, 60_exceptions.md R196, 70_reset_and_hazards.md R210: after an STI that changed IF from 0 to 1 no
external interrupt is taken at the boundary that follows; exactly one more instruction completes, and at the boundary
after that one a pending external interrupt is taken or another event is (the shadow on a 0-to-1 change only is D12
of the spec). -/
def Obligations.StiDelaysOneInstruction : Prop :=
  ∀ (p : Pfx) (s t u : State), exec (.sti p) s = .next t → flagIF s = false → flagIF t = true →
    takenEvent t ≠ some .external ∧
    (step t = .next u → flagIF u = true ∧ u.stiShadow = false ∧
      ((pendingNow u).ext = true → takenEvent u ≠ none))

/-- 42_flag_set.md R152: every instruction that completes clears `sti_shadow`, except an STI that changes IF from 0
to 1. And the model's bit `afterSti`, which lets the next boundary hold an NMI or SMI (R153), is set after an STI and
after no other instruction (that every STI sets it is the reading of log 11). -/
def Obligations.OnlyStiLeavesShadow : Prop :=
  ∀ (i : Instr) (s t : State), exec i s = .next t →
    (t.stiShadow = true → (∃ p, i = .sti p) ∧ flagIF s = false ∧ flagIF t = true) ∧
    (t.afterSti = true ↔ ∃ p, i = .sti p)

/-! ## SMSW -/

/-- 40_smsw.md R109, 10_state.md R19: SMSW of operand size 16 puts CR0[15:0] into the low half-doubleword of the register
and leaves its bits 63:16, every other register and memory as they were, at every CPL and in every mode. -/
def Obligations.SmswToRegister16 : Prop :=
  ∀ (p : Pfx) (n : BitVec 3) (s : State), p.lock = false →
    ∃ t, exec (.smswRm16 p (.reg n)) s = .next t ∧
      (readX t (regNum s p.b n)).extractLsb' 0 16 = s.cr0.extractLsb' 0 16 ∧
      (readX t (regNum s p.b n)).extractLsb' 16 48 = (readX s (regNum s p.b n)).extractLsb' 16 48 ∧
      writesGpr (.smswRm16 p (.reg n)) (regNum s p.b n) s t

/-- 40_smsw.md R110, R111, 10_state.md R19: SMSW of operand size 32. In 64-bit mode the register becomes CR0[31:0],
zero-extended; elsewhere its low 16 bits become CR0[15:0], bits 63:32 are kept, and nothing is said of bits 31:16. -/
def Obligations.SmswToRegister32 : Prop :=
  ∀ (p : Pfx) (n : BitVec 3) (s : State), p.lock = false →
    ∃ t, exec (.smswR32M16 p (.reg n)) s = .next t ∧
      (if in64 s then readX t (regNum s p.b n) = (s.cr0.extractLsb' 0 32).setWidth 64
      else
        (readX t (regNum s p.b n)).extractLsb' 0 16 = s.cr0.extractLsb' 0 16 ∧
        (readX t (regNum s p.b n)).extractLsb' 32 32 = (readX s (regNum s p.b n)).extractLsb' 32 32) ∧
      writesGpr (.smswR32M16 p (.reg n)) (regNum s p.b n) s t

/-- 40_smsw.md R112: SMSW of operand size 64 puts CR0[63:0] into the register. -/
def Obligations.SmswToRegister64 : Prop :=
  ∀ (p : Pfx) (n : BitVec 3) (s : State), p.lock = false →
    ∃ t, exec (.smswR64M16 p (.reg n)) s = .next t ∧ readX t (regNum s p.b n) = s.cr0 ∧
      writesGpr (.smswR64M16 p (.reg n)) (regNum s p.b n) s t

/-- 40_smsw.md R113: with a memory destination SMSW stores exactly two bytes, CR0[7:0] at the lower address, at every
operand size and in every mode, and nothing else changes. -/
def Obligations.SmswToMemory : Prop :=
  ∀ (p : Pfx) (m : MemForm) (i : Instr) (s : State),
    i ∈ [.smswRm16 p (.mem m), .smswR32M16 p (.mem m), .smswR64M16 p (.mem m)] → Memory.wf s.mem = true → p.lock = false →
    accessOk s (operandSeg s (addrBitsOfPfx p) m) (effAddr s (addrBitsOfPfx p) (instrLen i) m) 2 .write .plain = true →
    ∃ t, exec i s = .next t ∧
      writesBytes i
        (operandPhys s (operandSeg s (addrBitsOfPfx p) m) (effAddr s (addrBitsOfPfx p) (instrLen i) m) 2)
        [s.cr0.extractLsb' 0 8, s.cr0.extractLsb' 8 8] s t

/-! ## STR -/

/-- 45_str.md R176, 10_state.md R19: the selector of TR in a register, in protected, compatibility and 64-bit mode at
every CPL. A 16-bit destination keeps its upper bits; a 32-bit one has bits 31:16 cleared, and bits 63:32 cleared in
64-bit mode and kept elsewhere; a 64-bit one is the selector zero-extended. -/
def Obligations.StrToRegister : Prop :=
  ∀ (p : Pfx) (n : BitVec 3) (s : State), p.lock = false → realOrV86 s = false →
    ∃ t, exec (.str p (.reg n)) s = .next t ∧
      (match operandSize (codeCtx s) p.opsz p.w with
        | .o16 =>
          (readX t (regNum s p.b n)).extractLsb' 0 16 = s.tr.sel ∧
          (readX t (regNum s p.b n)).extractLsb' 16 48 = (readX s (regNum s p.b n)).extractLsb' 16 48
        | .o32 =>
          (readX t (regNum s p.b n)).extractLsb' 0 32 = s.tr.sel.setWidth 32 ∧
          (readX t (regNum s p.b n)).extractLsb' 32 32 =
            if in64 s then 0 else (readX s (regNum s p.b n)).extractLsb' 32 32
        | .o64 => readX t (regNum s p.b n) = s.tr.sel.setWidth 64) ∧
      writesGpr (.str p (.reg n)) (regNum s p.b n) s t

/-- 45_str.md R177: with a memory destination STR stores exactly two bytes, TR.sel[7:0] at the lower address, whatever
the operand size, and nothing else changes. -/
def Obligations.StrToMemory : Prop :=
  ∀ (p : Pfx) (m : MemForm) (s : State), Memory.wf s.mem = true → p.lock = false → realOrV86 s = false →
    accessOk s (operandSeg s (addrBitsOfPfx p) m)
      (effAddr s (addrBitsOfPfx p) (instrLen (.str p (.mem m))) m) 2 .write .strStore = true →
    ∃ t, exec (.str p (.mem m)) s = .next t ∧
      writesBytes (.str p (.mem m))
        (operandPhys s (operandSeg s (addrBitsOfPfx p) m)
          (effAddr s (addrBitsOfPfx p) (instrLen (.str p (.mem m))) m) 2)
        [s.tr.sel.extractLsb' 0 8, s.tr.sel.extractLsb' 8 8] s t

/-- 45_str.md R178: in real-address and virtual-8086 mode STR raises #UD, before any operand is looked at. -/
def Obligations.StrOutsideProtectedMode : Prop :=
  ∀ (p : Pfx) (rm : RM) (s : State), mode s = .real ∨ mode s = .v86 →
    exec (.str p rm) s = .fault (.exception .ud none (faulted s))

/-! ## STMXCSR, VSTMXCSR -/

/-- 43_stmxcsr.md R155, R158: STMXCSR stores the four bytes of MXCSR, lowest first, its reserved bits 31:16 as 0s, and
changes nothing else; the reserved bits are 0s whatever MXCSR holds in them. -/
def Obligations.StmxcsrStores : Prop :=
  ∀ (p : Pfx) (m : MemForm) (s : State), Memory.wf s.mem = true → p.lock = false → cr0EM s = false → cr4OSFXSR s = true →
    s.features.hasSse = true → cr0TS s = false →
    accessOk s (operandSeg s (addrBitsOfPfx p) m)
      (effAddr s (addrBitsOfPfx p) (instrLen (.stmxcsr p m)) m) 4 .write .mxcsrStore = true →
    ∃ t, exec (.stmxcsr p m) s = .next t ∧
      writesBytes (.stmxcsr p m)
        (operandPhys s (operandSeg s (addrBitsOfPfx p) m)
          (effAddr s (addrBitsOfPfx p) (instrLen (.stmxcsr p m)) m) 4)
        [s.mxcsr.extractLsb' 0 8, s.mxcsr.extractLsb' 8 8, 0, 0] s t

/-- 43_stmxcsr.md R156, R158: VSTMXCSR with VEX.L = 0 and vvvv = 1111b does the same. -/
def Obligations.VstmxcsrStores : Prop :=
  ∀ (v : Vex) (m : MemForm) (s : State), Memory.wf s.mem = true → v.l = false → v.vvvv = 0 → realOrV86 s = false →
    s.features.hasAvx = true → cr4OSXSAVE s = true → xcr0SseAvx s = 3 → cr0TS s = false →
    accessOk s (operandSeg s (addrBitsOfVex v) m)
      (effAddr s (addrBitsOfVex v) (instrLen (.vstmxcsr v m)) m) 4 .write .mxcsrStore = true →
    ∃ t, exec (.vstmxcsr v m) s = .next t ∧
      writesBytes (.vstmxcsr v m)
        (operandPhys s (operandSeg s (addrBitsOfVex v) m)
          (effAddr s (addrBitsOfVex v) (instrLen (.vstmxcsr v m)) m) 4)
        [s.mxcsr.extractLsb' 0 8, s.mxcsr.extractLsb' 8 8, 0, 0] s t

/-! ## STOS -/

/-- 44_stos.md R162 to R165: each of the eight forms stores the low `n` bytes of RAX at ES:index, whatever segment
override stands before it, and moves the index by `n`, up with DF = 0 and down with DF = 1, wrapping at the address
size; a 16-bit index keeps bits 63:16, a 32-bit one has bits 63:32 cleared in 64-bit mode and kept elsewhere. The address size is R89's, but for its default in
real-address and virtual-8086 mode with CS.D = 1, the model's choice (log 42). -/
def Obligations.StosStoresAndSteps : Prop :=
  ∀ (p : Pfx) (i : Instr) (n : Nat) (s : State),
    (i, n) ∈ [(.stosM8 p, 1), (.stosM16 p, 2), (.stosM32 p, 4), (.stosM64 p, 8),
      (.stosb p, 1), (.stosw p, 2), (.stosd p, 4), (.stosq p, 8)] → Memory.wf s.mem = true → p.lock = false →
    accessOk s .es (addrReg s (addrSize (codeCtx s) p.adsz) 7) n .write .plain = true →
    ∃ t, exec i s = .next t ∧
      holdsAt t (operandPhys s .es (addrReg s (addrSize (codeCtx s) p.adsz) 7) n)
        ((List.range n).map fun k => (readX s 0).extractLsb' (8 * k) 8) ∧
      keepsOutside s t (operandPhys s .es (addrReg s (addrSize (codeCtx s) p.adsz) 7) n) ∧
      (match addrSize (codeCtx s) p.adsz with
        | .a16 =>
          (readX t 7).extractLsb' 0 16 =
            (if flagDF s then (readX s 7).extractLsb' 0 16 - BitVec.ofNat 16 n
              else (readX s 7).extractLsb' 0 16 + BitVec.ofNat 16 n) ∧
          (readX t 7).extractLsb' 16 48 = (readX s 7).extractLsb' 16 48
        | .a32 =>
          (readX t 7).extractLsb' 0 32 =
            (if flagDF s then (readX s 7).extractLsb' 0 32 - BitVec.ofNat 32 n
              else (readX s 7).extractLsb' 0 32 + BitVec.ofNat 32 n) ∧
          (readX t 7).extractLsb' 32 32 = if in64 s then 0 else (readX s 7).extractLsb' 32 32
        | .a64 =>
          readX t 7 = if flagDF s then readX s 7 - BitVec.ofNat 64 n else readX s 7 + BitVec.ofNat 64 n) ∧
      (∀ j, j ≠ 7 → readX t j = readX s j) ∧ keepsYmms s t ∧ t.eflags = s.eflags ∧ t.mxcsr = s.mxcsr ∧
      completes i s t

/-! ## Square roots -/

/-- 41_sqrt.md R129, R132, R118, R120, R126, R127: SQRTPD and SQRTPS, register or memory source. Each result lane is the
root of its source lane, bits 255:128 of the destination stay, MXCSR gains the lanes' flags, nothing else changes. -/
def Obligations.LegacyPackedRoots : Prop :=
  ∀ (p : Pfx) (reg : BitVec 3) (rm : RM) (s : State),
    (legacyAvailable s p.lock s.features.hasSse2 = true →
      sourceOk 128 s (addrBitsOfPfx p) (instrLen (.sqrtpd p reg rm)) rm .packed16 = true →
      (laneFlags (.sqrtpd p reg rm) s).all (masked s) = true →
      ∃ t, exec (.sqrtpd p reg rm) s = .next t ∧
        (∀ k : Nat, k < 2 → (readYmm t (regNum s p.r reg)).extractLsb' (64 * k) 64 =
          (sqrt64 ((sourceValue 128 s (addrBitsOfPfx p) (instrLen (.sqrtpd p reg rm)) rm).extractLsb' (64 * k) 64)
            (mxcsrRC s) (mxcsrDAZ s)).1) ∧
        (readYmm t (regNum s p.r reg)).extractLsb' 128 128 =
          (readYmm s (regNum s p.r reg)).extractLsb' 128 128 ∧
        writesRoot (.sqrtpd p reg rm) (regNum s p.r reg) s t) ∧
    (legacyAvailable s p.lock s.features.hasSse = true →
      sourceOk 128 s (addrBitsOfPfx p) (instrLen (.sqrtps p reg rm)) rm .packed16 = true →
      (laneFlags (.sqrtps p reg rm) s).all (masked s) = true →
      ∃ t, exec (.sqrtps p reg rm) s = .next t ∧
        (∀ k : Nat, k < 4 → (readYmm t (regNum s p.r reg)).extractLsb' (32 * k) 32 =
          (sqrt32 ((sourceValue 128 s (addrBitsOfPfx p) (instrLen (.sqrtps p reg rm)) rm).extractLsb' (32 * k) 32)
            (mxcsrRC s) (mxcsrDAZ s)).1) ∧
        (readYmm t (regNum s p.r reg)).extractLsb' 128 128 =
          (readYmm s (regNum s p.r reg)).extractLsb' 128 128 ∧
        writesRoot (.sqrtps p reg rm) (regNum s p.r reg) s t)

/-- 41_sqrt.md R135, R137, R118, R120, R126, R127: SQRTSD and SQRTSS, register or memory source. The low lane is the root
of the low lane of the source, every higher bit of the destination stays. -/
def Obligations.LegacyScalarRoots : Prop :=
  ∀ (p : Pfx) (reg : BitVec 3) (rm : RM) (s : State),
    (legacyAvailable s p.lock s.features.hasSse2 = true →
      sourceOk 64 s (addrBitsOfPfx p) (instrLen (.sqrtsd p reg rm)) rm .plain = true →
      (laneFlags (.sqrtsd p reg rm) s).all (masked s) = true →
      ∃ t, exec (.sqrtsd p reg rm) s = .next t ∧
        (readYmm t (regNum s p.r reg)).extractLsb' 0 64 =
          (sqrt64 (sourceValue 64 s (addrBitsOfPfx p) (instrLen (.sqrtsd p reg rm)) rm)
            (mxcsrRC s) (mxcsrDAZ s)).1 ∧
        (readYmm t (regNum s p.r reg)).extractLsb' 64 192 = (readYmm s (regNum s p.r reg)).extractLsb' 64 192 ∧
        writesRoot (.sqrtsd p reg rm) (regNum s p.r reg) s t) ∧
    (legacyAvailable s p.lock s.features.hasSse = true →
      sourceOk 32 s (addrBitsOfPfx p) (instrLen (.sqrtss p reg rm)) rm .plain = true →
      (laneFlags (.sqrtss p reg rm) s).all (masked s) = true →
      ∃ t, exec (.sqrtss p reg rm) s = .next t ∧
        (readYmm t (regNum s p.r reg)).extractLsb' 0 32 =
          (sqrt32 (sourceValue 32 s (addrBitsOfPfx p) (instrLen (.sqrtss p reg rm)) rm)
            (mxcsrRC s) (mxcsrDAZ s)).1 ∧
        (readYmm t (regNum s p.r reg)).extractLsb' 32 224 = (readYmm s (regNum s p.r reg)).extractLsb' 32 224 ∧
        writesRoot (.sqrtss p reg rm) (regNum s p.r reg) s t)

/-- 41_sqrt.md R130, R131, R118, R120, R126, R127: VSQRTPD of two and of four lanes, register or memory source; the bits
above the result become 0. -/
def Obligations.VexPackedDoubleRoots : Prop :=
  ∀ (v : Vex) (reg : BitVec 3) (rm : RM) (s : State), vexAvailable s (v.vvvv != 0) = true →
    (sourceOk 128 s (addrBitsOfVex v) (instrLen (.vsqrtpdXmm v reg rm)) rm .plain = true →
      (laneFlags (.vsqrtpdXmm v reg rm) s).all (masked s) = true →
      ∃ t, exec (.vsqrtpdXmm v reg rm) s = .next t ∧
        (∀ k : Nat, k < 2 → (readYmm t (regNum s v.r reg)).extractLsb' (64 * k) 64 =
          (sqrt64 ((sourceValue 128 s (addrBitsOfVex v) (instrLen (.vsqrtpdXmm v reg rm)) rm).extractLsb' (64 * k) 64)
            (mxcsrRC s) (mxcsrDAZ s)).1) ∧
        (readYmm t (regNum s v.r reg)).extractLsb' 128 128 = 0 ∧
        writesRoot (.vsqrtpdXmm v reg rm) (regNum s v.r reg) s t) ∧
    (sourceOk 256 s (addrBitsOfVex v) (instrLen (.vsqrtpdYmm v reg rm)) rm .plain = true →
      (laneFlags (.vsqrtpdYmm v reg rm) s).all (masked s) = true →
      ∃ t, exec (.vsqrtpdYmm v reg rm) s = .next t ∧
        (∀ k : Nat, k < 4 → (readYmm t (regNum s v.r reg)).extractLsb' (64 * k) 64 =
          (sqrt64 ((sourceValue 256 s (addrBitsOfVex v) (instrLen (.vsqrtpdYmm v reg rm)) rm).extractLsb' (64 * k) 64)
            (mxcsrRC s) (mxcsrDAZ s)).1) ∧
        writesRoot (.vsqrtpdYmm v reg rm) (regNum s v.r reg) s t)

/-- 41_sqrt.md R133, R134, R118, R120, R126, R127: VSQRTPS of four and of eight lanes, register or memory source; the bits
above the result become 0. -/
def Obligations.VexPackedSingleRoots : Prop :=
  ∀ (v : Vex) (reg : BitVec 3) (rm : RM) (s : State), vexAvailable s (v.vvvv != 0) = true →
    (sourceOk 128 s (addrBitsOfVex v) (instrLen (.vsqrtpsXmm v reg rm)) rm .plain = true →
      (laneFlags (.vsqrtpsXmm v reg rm) s).all (masked s) = true →
      ∃ t, exec (.vsqrtpsXmm v reg rm) s = .next t ∧
        (∀ k : Nat, k < 4 → (readYmm t (regNum s v.r reg)).extractLsb' (32 * k) 32 =
          (sqrt32 ((sourceValue 128 s (addrBitsOfVex v) (instrLen (.vsqrtpsXmm v reg rm)) rm).extractLsb' (32 * k) 32)
            (mxcsrRC s) (mxcsrDAZ s)).1) ∧
        (readYmm t (regNum s v.r reg)).extractLsb' 128 128 = 0 ∧
        writesRoot (.vsqrtpsXmm v reg rm) (regNum s v.r reg) s t) ∧
    (sourceOk 256 s (addrBitsOfVex v) (instrLen (.vsqrtpsYmm v reg rm)) rm .plain = true →
      (laneFlags (.vsqrtpsYmm v reg rm) s).all (masked s) = true →
      ∃ t, exec (.vsqrtpsYmm v reg rm) s = .next t ∧
        (∀ k : Nat, k < 8 → (readYmm t (regNum s v.r reg)).extractLsb' (32 * k) 32 =
          (sqrt32 ((sourceValue 256 s (addrBitsOfVex v) (instrLen (.vsqrtpsYmm v reg rm)) rm).extractLsb' (32 * k) 32)
            (mxcsrRC s) (mxcsrDAZ s)).1) ∧
        writesRoot (.vsqrtpsYmm v reg rm) (regNum s v.r reg) s t)

/-- 41_sqrt.md R136, R138, R118, R120, R126, R127: VSQRTSD and VSQRTSS, register or memory source, whatever VEX.L and
VEX.W are. The low lane is the root, the bits up to 127 are those of the vvvv register as it was before, the bits above
become 0. -/
def Obligations.VexScalarRoots : Prop :=
  ∀ (v : Vex) (reg : BitVec 3) (rm : RM) (s : State), vexAvailable s false = true →
    (sourceOk 64 s (addrBitsOfVex v) (instrLen (.vsqrtsd v reg rm)) rm .plain = true →
      (laneFlags (.vsqrtsd v reg rm) s).all (masked s) = true →
      ∃ t, exec (.vsqrtsd v reg rm) s = .next t ∧
        (readYmm t (regNum s v.r reg)).extractLsb' 0 64 =
          (sqrt64 (sourceValue 64 s (addrBitsOfVex v) (instrLen (.vsqrtsd v reg rm)) rm)
            (mxcsrRC s) (mxcsrDAZ s)).1 ∧
        (readYmm t (regNum s v.r reg)).extractLsb' 64 64 = (readYmm s (vvvvNum s v.vvvv)).extractLsb' 64 64 ∧
        (readYmm t (regNum s v.r reg)).extractLsb' 128 128 = 0 ∧
        writesRoot (.vsqrtsd v reg rm) (regNum s v.r reg) s t) ∧
    (sourceOk 32 s (addrBitsOfVex v) (instrLen (.vsqrtss v reg rm)) rm .plain = true →
      (laneFlags (.vsqrtss v reg rm) s).all (masked s) = true →
      ∃ t, exec (.vsqrtss v reg rm) s = .next t ∧
        (readYmm t (regNum s v.r reg)).extractLsb' 0 32 =
          (sqrt32 (sourceValue 32 s (addrBitsOfVex v) (instrLen (.vsqrtss v reg rm)) rm)
            (mxcsrRC s) (mxcsrDAZ s)).1 ∧
        (readYmm t (regNum s v.r reg)).extractLsb' 32 96 = (readYmm s (vvvvNum s v.vvvv)).extractLsb' 32 96 ∧
        (readYmm t (regNum s v.r reg)).extractLsb' 128 128 = 0 ∧
        writesRoot (.vsqrtss v reg rm) (regNum s v.r reg) s t)

/-- 41_sqrt.md R124, R123: for a positive finite input, not zero after the DAZ step, the result is the exact root rounded
as RC says, in both formats; P is raised exactly when the root is not representable, I never, and D exactly for a
denormal. (The rounding to nearest leaves no ties: the root of a representable number is never a midpoint. SQRT32 and
SQRT64 are computed, not opaque: log 15.) -/
def Obligations.RootsAreCorrectlyRounded : Prop :=
  (∀ (v : BitVec 64) (rc : BitVec 2) (daz : Bool), 0 < v.toNat → v.toNat < 0x7FF0000000000000 →
    (daz = true → 0x0010000000000000 ≤ v.toNat) →
    binary64.isRoundedRoot rc (binary64.value v.toNat) (sqrt64 v rc daz).1.toNat ∧
    ((sqrt64 v rc daz).2.p = true ↔ ∀ r : BitVec 64, r.toNat < 0x7FF0000000000000 →
      binary64.value r.toNat ^ 2 ≠ binary64.value v.toNat) ∧
    (sqrt64 v rc daz).2.i = false ∧ ((sqrt64 v rc daz).2.d = true ↔ v.toNat < 0x0010000000000000)) ∧
  (∀ (v : BitVec 32) (rc : BitVec 2) (daz : Bool), 0 < v.toNat → v.toNat < 0x7F800000 →
    (daz = true → 0x00800000 ≤ v.toNat) →
    binary32.isRoundedRoot rc (binary32.value v.toNat) (sqrt32 v rc daz).1.toNat ∧
    ((sqrt32 v rc daz).2.p = true ↔ ∀ r : BitVec 32, r.toNat < 0x7F800000 →
      binary32.value r.toNat ^ 2 ≠ binary32.value v.toNat) ∧
    (sqrt32 v rc daz).2.i = false ∧ ((sqrt32 v rc daz).2.d = true ↔ v.toNat < 0x00800000))

/-- 41_sqrt.md R123: zeros, +infinity and quiet NaNs come back unchanged without a flag; a signalling NaN comes back
quiet with I alone; minus infinity and a negative normal number give the indefinite with I alone. -/
def Obligations.SpecialRoots : Prop :=
  (∀ (v : BitVec 64) (rc : BitVec 2) (daz : Bool),
    ((v = 0 ∨ v = 0x8000000000000000 ∨ v = 0x7FF0000000000000 ∨
        (v.extractLsb' 52 11 = 0x7FF ∧ v.getLsbD 51 = true)) → sqrt64 v rc daz = (v, ⟨false, false, false⟩)) ∧
    ((v.extractLsb' 52 11 = 0x7FF ∧ v.getLsbD 51 = false ∧ v.extractLsb' 0 51 ≠ 0) →
      sqrt64 v rc daz = (v ||| 0x0008000000000000, ⟨true, false, false⟩)) ∧
    ((v = 0xFFF0000000000000 ∨ (v.getLsbD 63 = true ∧ v.extractLsb' 52 11 ≠ 0 ∧ v.extractLsb' 52 11 ≠ 0x7FF)) →
      sqrt64 v rc daz = (0xFFF8000000000000, ⟨true, false, false⟩))) ∧
  (∀ (v : BitVec 32) (rc : BitVec 2) (daz : Bool),
    ((v = 0 ∨ v = 0x80000000 ∨ v = 0x7F800000 ∨
        (v.extractLsb' 23 8 = 0xFF ∧ v.getLsbD 22 = true)) → sqrt32 v rc daz = (v, ⟨false, false, false⟩)) ∧
    ((v.extractLsb' 23 8 = 0xFF ∧ v.getLsbD 22 = false ∧ v.extractLsb' 0 22 ≠ 0) →
      sqrt32 v rc daz = (v ||| 0x00400000, ⟨true, false, false⟩)) ∧
    ((v = 0xFF800000 ∨ (v.getLsbD 31 = true ∧ v.extractLsb' 23 8 ≠ 0 ∧ v.extractLsb' 23 8 ≠ 0xFF)) →
      sqrt32 v rc daz = (0xFFC00000, ⟨true, false, false⟩)))

/-- 41_sqrt.md R125: with DAZ a denormal gives the zero of its sign and no flag; without it a positive denormal raises D
and not I, and a negative one gives the indefinite with I and not P (of its D nothing is said: U12, log 16). -/
def Obligations.DenormalRoots : Prop :=
  (∀ (v : BitVec 64) (rc : BitVec 2), v.extractLsb' 52 11 = 0 → v.extractLsb' 0 52 ≠ 0 →
    sqrt64 v rc true = (v &&& 0x8000000000000000, ⟨false, false, false⟩) ∧
    (v.getLsbD 63 = false → (sqrt64 v rc false).2.d = true ∧ (sqrt64 v rc false).2.i = false) ∧
    (v.getLsbD 63 = true → (sqrt64 v rc false).1 = 0xFFF8000000000000 ∧ (sqrt64 v rc false).2.i = true ∧
      (sqrt64 v rc false).2.p = false)) ∧
  (∀ (v : BitVec 32) (rc : BitVec 2), v.extractLsb' 23 8 = 0 → v.extractLsb' 0 23 ≠ 0 →
    sqrt32 v rc true = (v &&& 0x80000000, ⟨false, false, false⟩) ∧
    (v.getLsbD 31 = false → (sqrt32 v rc false).2.d = true ∧ (sqrt32 v rc false).2.i = false) ∧
    (v.getLsbD 31 = true → (sqrt32 v rc false).1 = 0xFFC00000 ∧ (sqrt32 v rc false).2.i = true ∧
      (sqrt32 v rc false).2.p = false))

/-- 41_sqrt.md R126: an instruction that could read its source and meets an unmasked condition in a lane raises #XM, or
#UD with CR4.OSXMMEXCPT = 0; no vector register, no other register and no byte has changed (of the six MXCSR flags
nothing is said: U13, log 17). -/
def Obligations.UnmaskedConditionFaults : Prop :=
  ∀ (i : Instr) (s : State), available i s = true →
    (∀ a, memAccess i s = some a → accessOk s a.seg a.off a.size a.kind a.rule = true) →
    (laneFlags i s).all (masked s) = false →
    ∃ left, exec i s = .fault (.exception (if cr4OSXMMEXCPT s then .xm else .ud) none left) ∧
      keepsYmms s left ∧ keepsGprs s left ∧ left.mem = s.mem ∧ left.eflags = s.eflags ∧ left.pc = s.pc ∧
      sameConstants s left

/-! ## Availability -/

/-- 41_sqrt.md R127, 43_stmxcsr.md R158: the legacy SSE forms raise #UD with LOCK, CR0.EM = 1, CR4.OSFXSR = 0 or without
their feature, and else #NM with CR0.TS = 1, whatever their operands are. -/
def Obligations.LegacySseUnavailable : Prop :=
  ∀ (p : Pfx) (reg : BitVec 3) (rm : RM) (m : MemForm) (s : State) (i : Instr) (has : Bool),
    (i, has) ∈ [(.sqrtpd p reg rm, s.features.hasSse2), (.sqrtps p reg rm, s.features.hasSse),
      (.sqrtsd p reg rm, s.features.hasSse2), (.sqrtss p reg rm, s.features.hasSse),
      (.stmxcsr p m, s.features.hasSse)] →
    if p.lock = true ∨ cr0EM s = true ∨ cr4OSFXSR s = false ∨ has = false then
      exec i s = .fault (.exception .ud none (faulted s))
    else cr0TS s = true → exec i s = .fault (.exception .nm none (faulted s))

/-- 41_sqrt.md R127, 43_stmxcsr.md R158: the VEX forms raise #UD in real-address and virtual-8086 mode, without AVX, with
CR4.OSXSAVE = 0, with XCR0[2:1] other than 11b or with a reserved field set, and else #NM with CR0.TS = 1. -/
def Obligations.VexUnavailable : Prop :=
  ∀ (v : Vex) (reg : BitVec 3) (rm : RM) (m : MemForm) (s : State) (i : Instr) (reserved : Bool),
    (i, reserved) ∈ [(.vsqrtpdXmm v reg rm, v.vvvv != 0), (.vsqrtpdYmm v reg rm, v.vvvv != 0),
      (.vsqrtpsXmm v reg rm, v.vvvv != 0), (.vsqrtpsYmm v reg rm, v.vvvv != 0), (.vsqrtsd v reg rm, false),
      (.vsqrtss v reg rm, false), (.vstmxcsr v m, v.l || v.vvvv != 0)] →
    if mode s = .real ∨ mode s = .v86 ∨ s.features.hasAvx = false ∨ cr4OSXSAVE s = false ∨ xcr0SseAvx s ≠ 3 ∨
        reserved = true then
      exec i s = .fault (.exception .ud none (faulted s))
    else cr0TS s = true → exec i s = .fault (.exception .nm none (faulted s))

/-- 30_encoding.md R101, R100: vvvv other than 1111b in VSQRTPD, VSQRTPS and VSTMXCSR, and L = 1 in VSTMXCSR, raise #UD in
every state; the decoder answers #UD at the opcode byte of the square roots and at the ModR/M byte of the store,
whatever follows. -/
def Obligations.ReservedVexFields : Prop :=
  (∀ (v : Vex) (reg : BitVec 3) (rm : RM) (m : MemForm) (s : State) (i : Instr),
    ((v.vvvv ≠ 0 ∧ i ∈ [.vsqrtpdXmm v reg rm, .vsqrtpdYmm v reg rm, .vsqrtpsXmm v reg rm, .vsqrtpsYmm v reg rm,
        .vstmxcsr v m]) ∨ (v.l = true ∧ i = .vstmxcsr v m)) →
    exec i s = .fault (.exception .ud none (faulted s))) ∧
  (∀ (c : CodeCtx) (v : Vex) (pp : BitVec 2) (rest : List Byte), v.wellFormed c = true → v.vvvv ≠ 0 →
    (pp = 0 ∨ pp = 1) → decode c (encodeVex v pp ++ 0x51 :: rest) = .ud) ∧
  (∀ (c : CodeCtx) (v : Vex) (mod : BitVec 2) (rm : BitVec 3) (rest : List Byte), v.wellFormed c = true →
    (v.vvvv ≠ 0 ∨ v.l = true) → mod ≠ 3 →
    decode c (encodeVex v 0 ++ 0xAE :: byteOfFields mod 3 rm :: rest) = .ud)

/-- 30_encoding.md R75: LOCK before any instruction in scope raises #UD in every mode, register or memory form. -/
def Obligations.LockRaisesUd : Prop :=
  ∀ (i : Instr) (s : State), locked i = true → exec i s = .fault (.exception .ud none (faulted s))

/-! ## Memory exceptions -/

/-- 20_memory.md R60, R58: an access past the segment limit, outside 64-bit mode, and an access with a byte at a
non-canonical address, in 64-bit mode, raise #SS through SS and #GP otherwise, with error code 0 (none in real-address
mode), and nothing has changed. Limits are checked as R60 says, not by its flat default (log 5); that the limit is asked before
the rights, so that an access through SS against both is #SS, is the model's choice (log 37), and so is the sum past
offset FFFFFFFFH, which it counts as past every limit (log 39). -/
def Obligations.UnreachableOperand : Prop :=
  ∀ (i : Instr) (s : State) (a : MemAccess), available i s = true → memAccess i s = some a →
    ((in64 s = false ∧ (segReg s a.seg).limit.toNat < a.off.toNat + a.size - 1) ∨
      (in64 s = true ∧ ∃ k : Nat, k < a.size ∧ canonical (linearAddr s a.seg a.off + BitVec.ofNat 64 k) = false)) →
    exec i s = .fault (.exception (if a.seg = .ss then .ss else .gp)
      (if mode s = .real then none else some 0) (faulted s))

/-- 20_memory.md R60, 40_smsw.md R115, 43_stmxcsr.md R159, 45_str.md R180, 60_exceptions.md R185: in protected and
compatibility mode a write to a segment that is not writable, a read from one that is not readable, and an access
through DS, ES, FS or GS with a NULL selector, for STR, STMXCSR and VSTMXCSR through any segment with one, raise #GP(0);
through SS it is #GP(0) for SMSW and STR too, #SS(0) for STMXCSR and VSTMXCSR, and one of the two, nothing says which,
for the square roots, where R60 and R185 differ (the choice is free: log 40). Nothing changes. The limit is respected (what a NULL selector is,
the model presumes: log 5; that the limit comes first is its choice: log 37; how a limit is held against an operand past
FFFFFFFFH: log 39). -/
def Obligations.SegmentRightsFault : Prop :=
  ∀ (i : Instr) (s : State) (a : MemAccess), available i s = true → memAccess i s = some a →
    (mode s = .prot ∨ mode s = .compat) → a.off.toNat + a.size - 1 ≤ (segReg s a.seg).limit.toNat →
    ((a.kind = .write ∧ (segReg s a.seg).writable = false) ∨ (a.kind = .read ∧ (segReg s a.seg).readable = false) ∨
      (nullSelector (segReg s a.seg) = true ∧ (a.seg ∈ [.ds, .es, .fs, .gs] ∨ (∃ p rm, i = .str p rm) ∨
        (∃ p m, i = .stmxcsr p m) ∨ ∃ v m, i = .vstmxcsr v m))) →
    ∃ e, exec i s = .fault (.exception e (some 0) (faulted s)) ∧
      (if a.seg = .ss then
        match i with
        | .stmxcsr _ _ => e = .ss
        | .vstmxcsr _ _ => e = .ss
        | .smswRm16 _ _ => e = .gp
        | .smswR32M16 _ _ => e = .gp
        | .smswR64M16 _ _ => e = .gp
        | .str _ _ => e = .gp
        | _ => e = .gp ∨ e = .ss
      else e = .gp)

/-- 20_memory.md R52: with CR0.AM = 1, EFLAGS.AC = 1 and CPL 3 an access of 2, 4 or 8 bytes at an address that is no
multiple of its size raises #AC(0), segment and canonical checks having passed (log 24: no such check at 16 or 32
bytes). -/
def Obligations.AlignmentCheckFault : Prop :=
  ∀ (i : Instr) (s : State) (a : MemAccess), available i s = true → memAccess i s = some a →
    segCheck s a.seg a.off a.size a.kind a.rule = none →
    (in64 s = true → (operandAddrs s a.seg a.off a.size).all canonical = true) →
    a.size ∈ [2, 4, 8] → cr0AM s = true → flagAC s = true → currentCpl s = 3 →
    (linearAddr s a.seg a.off).toNat % a.size ≠ 0 →
    exec i s = .fault (.exception .ac (some 0) (faulted s))

/-- 20_memory.md R53: legacy SQRTPD and SQRTPS raise #GP, with error code 0 outside real-address mode, when the address of
their m128 operand is no multiple of 16, whatever CPL, AM and AC are. -/
def Obligations.MisalignedLegacyPacked : Prop :=
  ∀ (p : Pfx) (reg : BitVec 3) (m : MemForm) (i : Instr) (s : State) (a : MemAccess),
    i ∈ [.sqrtpd p reg (.mem m), .sqrtps p reg (.mem m)] → available i s = true → memAccess i s = some a →
    segCheck s a.seg a.off a.size a.kind a.rule = none →
    (in64 s = true → (operandAddrs s a.seg a.off a.size).all canonical = true) →
    (linearAddr s a.seg a.off).toNat % 16 ≠ 0 →
    exec i s = .fault (.exception .gp (if mode s = .real then none else some 0) (faulted s))

/-- 60_exceptions.md R182, 20_memory.md R61: the first byte of an operand that `Translate` refuses raises #PF; CR2 has its
linear address; the error code has bit 0 for a present page, bit 1 for a write, bit 2 for CPL 3 and no other bit; no
register but CR2 and no byte has changed. (`pages` is the model's form of the parameter `Translate`: log 6.) -/
def Obligations.PageFaultReports : Prop :=
  ∀ (i : Instr) (s : State) (a : MemAccess) (k : Nat) (r : PageRange), available i s = true →
    memAccess i s = some a → segCheck s a.seg a.off a.size a.kind a.rule = none →
    (in64 s = true → (operandAddrs s a.seg a.off a.size).all canonical = true) →
    alignFault s (linearAddr s a.seg a.off) a.size a.rule = none → cr0PE s = true → cr0PG s = true →
    k < a.size → (∀ j : Nat, j < k → pageFaults s a.kind (byteAddr s (linearAddr s a.seg a.off) j) = false) →
    pageOf s (byteAddr s (linearAddr s a.seg a.off) k) = some r →
    (r.present = false ∨ (currentCpl s = 3 ∧ r.user = false) ∨
      (a.kind = .write ∧ r.writable = false ∧ (currentCpl s = 3 ∨ cr0WP s = true))) →
    ∃ code left, exec i s = .fault (.exception .pf (some code) left) ∧
      left.cr2 = byteAddr s (linearAddr s a.seg a.off) k ∧ left = { faulted s with cr2 := left.cr2 } ∧
      code.getLsbD 0 = r.present ∧ code.getLsbD 1 = (a.kind == .write) ∧ code.getLsbD 2 = (currentCpl s == 3) ∧
      ∀ b : Nat, 3 ≤ b → code.getLsbD b = false

/-- 20_memory.md R70 (D8), 70_reset_and_hazards.md R212: a store to a byte of the program text, through its own linear
address or through another one of the same physical byte, when no exception comes first, is refused and gives no state
(that exceptions come first is the model's order: log 35). So no step changes a byte of the text that a fetch can
read. -/
def Obligations.StoreToTextRefused : Prop :=
  (∀ (i : Instr) (s : State) (a : MemAccess), available i s = true → memAccess i s = some a → a.kind = .write →
    segCheck s a.seg a.off a.size a.kind a.rule = none →
    (in64 s = true → (operandAddrs s a.seg a.off a.size).all canonical = true) →
    alignFault s (linearAddr s a.seg a.off) a.size a.rule = none →
    (operandAddrs s a.seg a.off a.size).all (fun x => !pageFaults s a.kind x) = true →
    (∃ x ∈ operandAddrs s a.seg a.off a.size, inText s x = true ∨
      ∃ y, inText s y = true ∧ pageFaults s .execute y = false ∧ physOf s y = physOf s x) →
    exec i s = .refused .storeToText) ∧
  (∀ (s t : State) (y : BitVec 64), Memory.wf s.mem = true → step s = .next t → inText s y = true →
    pageFaults s .execute y = false → memRead t.mem (physOf t y) = memRead s.mem (physOf s y))

/-! ## Exceptions as a whole -/

/-- 60_exceptions.md R189: an instruction that raises an exception has changed no register, no flag, no byte of memory
and not `pc`; `sti_shadow` is cleared; CR2 differs only after #PF (R182), and of MXCSR only the six exception flags, only
for a numeric condition. That the fault carries the state it leaves is the model's form of R188: log 18. -/
def Obligations.ExceptionsArePrecise : Prop :=
  ∀ (i : Instr) (s left : State) (e : Exc) (code : Option (BitVec 32)),
    exec i s = .fault (.exception e code left) →
    keepsGprs s left ∧ keepsYmms s left ∧ left.mem = s.mem ∧ left.eflags = s.eflags ∧ left.pc = s.pc ∧
    left.inputs = s.inputs ∧ left.stiShadow = false ∧ sameConstants { s with cr2 := left.cr2 } left ∧
    (e ≠ .pf → left.cr2 = s.cr2) ∧
    left.mxcsr.extractLsb' 6 26 = s.mxcsr.extractLsb' 6 26 ∧
    ((laneFlags i s).all (masked s) = true → left.mxcsr = s.mxcsr)

/-- 60_exceptions.md R186: an instruction raises no exception but those of its row of the table. -/
def Obligations.OnlyListedExceptions : Prop :=
  ∀ (i : Instr) (s left : State) (e : Exc) (code : Option (BitVec 32)),
    exec i s = .fault (.exception e code left) → e ∈ canRaise i

/-- 60_exceptions.md R182: #UD, #NM and #XM have no error code and no exception has one in real-address mode; #SS, #GP and
#AC have the code 0 elsewhere and #PF has one. -/
def Obligations.ErrorCodes : Prop :=
  ∀ (i : Instr) (s left : State) (e : Exc) (code : Option (BitVec 32)),
    exec i s = .fault (.exception e code left) →
    (if e ∈ [.ud, .nm, .xm] ∨ mode s = .real then code = none
    else if e = .pf then code.isSome = true else code = some 0)

/-- Completion: an instruction completes exactly when its availability checks pass, its memory operand can
be accessed and no lane has an unmasked condition (60_exceptions.md R183 to R187 taken together, with the stops of
20_memory.md R62 and R70; accessOk is the model's reading of R59, logs 5 to 7). -/
def Obligations.CompletionIsExact : Prop :=
  ∀ (i : Instr) (s : State), (∃ t, exec i s = .next t) ↔
    available i s = true ∧
    (∀ a, memAccess i s = some a → accessOk s a.seg a.off a.size a.kind a.rule = true) ∧
    (laneFlags i s).all (masked s) = true

/-! ## Whole machine -/

/-- The invariant holds after reset (10_state.md R43; that memory then lists nothing is the model's choice: log 4). -/
def Obligations.InvAtReset : Prop := inv State.reset = true

/-- Every step keeps the invariant: the store stays in canonical form, the reserved bits of EFLAGS, MXCSR and CR0 keep
the values they must have (10_state.md R23, R26, R32). -/
def Obligations.StepKeepsInv : Prop :=
  ∀ s t : State, inv s = true → step s = .next t → inv t = true

/-- 10_state.md R45, R28, R30, R31, R34 to R37: no step writes a control register, a segment register, TR, LDTR, GDTR,
IDTR or CPL, and no step changes the mode. -/
def Obligations.StepKeepsConstants : Prop :=
  ∀ s t : State, step s = .next t → sameConstants s t ∧ mode t = mode s

/-- 10_state.md R24: no instruction writes a flag that the table does not list for it: STC writes CF, STD DF, STI IF or
VIF, every other instruction none; and a flag written becomes 1. -/
def Obligations.FlagWriters : Prop :=
  ∀ (i : Instr) (s t : State) (k : Nat), exec i s = .next t → t.eflags.getLsbD k ≠ s.eflags.getLsbD k →
    t.eflags.getLsbD k = true ∧
    ((k = 0 ∧ ∃ p, i = .stc p) ∨ (k = 10 ∧ ∃ p, i = .std p) ∨ ((k = 9 ∨ k = 19) ∧ ∃ p, i = .sti p))

/-- 10_state.md R32, R33: MXCSR is written by the square roots only, no exception flag is ever cleared, and only IE, DE
and PE can be set. -/
def Obligations.MxcsrIsSticky : Prop :=
  ∀ (i : Instr) (s t : State) (k : Nat), exec i s = .next t → t.mxcsr.getLsbD k ≠ s.mxcsr.getLsbD k →
    t.mxcsr.getLsbD k = true ∧ (k = 0 ∨ k = 1 ∨ k = 5) ∧ laneFlags i s ≠ []

/-- 10_state.md R22: a completed instruction ends with `pc + ilen`, modulo 2^64 in 64-bit mode, 2^32 in 32-bit code and
2^16 in 16-bit code (the bits above the width are then 0, the choice of log 31; that code in real-address and
virtual-8086 mode with CS.D = 1 counts as 16-bit is the choice of log 42). -/
def Obligations.PcAdvancesByLength : Prop :=
  ∀ (i : Instr) (s t : State), exec i s = .next t →
    t.pc.toNat =
      (s.pc.toNat + instrLen i) % (if in64 s then 2 ^ 64 else if default32 s then 2 ^ 32 else 2 ^ 16)

/-- 10_state.md R17, R38: a step outside 64-bit mode changes no general or vector register 8 to 15 and no bit 63:32 of any
general register (that bits 63:32 are kept is decision D25 of the spec). -/
def Obligations.LegacyModesKeepUpperState : Prop :=
  ∀ (s t : State), in64 s = false → step s = .next t →
    ∀ j : BitVec 4, (readX t j).extractLsb' 32 32 = (readX s j).extractLsb' 32 32 ∧
      (8 ≤ j.toNat → readX t j = readX s j ∧ readYmm t j = readYmm s j)

/-- A step runs the decoded instruction: with the program counter inside the text, no event recognised and TF = 0, a
step at bytes that decode to `i` is `exec i` in the state after the boundary, which has the same registers and memory
and only the input of this boundary used up; with no input left it is `exec i` of the state itself. The bytes are those
of memory at `CS:pc` and on, byte `k` being the one that the address of `CS:pc` plus `k` translates to
(20_memory.md R69, 60_exceptions.md R194, 70_reset_and_hazards.md R216; text and inputs are the model's form of the
run's parameters: logs 9, 10). Of byte `k` past offset FFFFH in 16-bit code R69 says nothing: that such a byte too is the
one at the address of `CS:pc` plus `k`, without a wrap to offset 0, is the model's choice (DESIGN CHOICE, unsafe: log 41);
so is the 16-bit width of the offset in real-address and virtual-8086 mode with CS.D = 1 (log 42). -/
def Obligations.StepRunsDecoded : Prop :=
  ∀ (s : State) (i : Instr) (rest : List Byte), atEnd s = false → recognised s = [] → flagTF s = false →
    decode (codeCtx s) (codeBytes s) = .ok i rest → i.wellFormed (codeCtx s) = true →
    step s = exec i (passBoundary s) ∧
    passBoundary s = { s with inputs := (passBoundary s).inputs, freeIdx := (passBoundary s).freeIdx } ∧
    (nmiHeld s = false → smiHeld s = false → (passBoundary s).inputs = s.inputs.tail) ∧
    (s.inputs = [] → step s = exec i s) ∧
    (∀ (k : Nat) (b : Byte), (codeBytes s)[k]? = some b →
      b = memRead s.mem (physOf s (byteAddr s (linearAddr s .cs (codeOffset s)) k)))

/-- 60_exceptions.md R195 to R198, 42_flag_set.md R153: an external interrupt is recognised if and only if one is pending,
IF = 1 and `sti_shadow` = 0; an NMI or SMI is recognised only when one is pending; one held back stays pending at the
next boundary, and only the boundary right after an STI (`afterSti`, which OnlyStiLeavesShadow ties to STI) can hold one
(whether it does is free: log 11; so is the order of several: log 10); what is recognised ends the run with the event's kind. -/
def Obligations.EventsAtBoundary : Prop :=
  ∀ s : State, atEnd s = false →
    (.external ∈ recognised s ↔ (pendingNow s).ext = true ∧ flagIF s = true ∧ s.stiShadow = false) ∧
    (.nmi ∈ recognised s → (pendingNow s).nmi = true) ∧
    (.smi ∈ recognised s → (pendingNow s).smi = true) ∧
    ((pendingNow s).nmi = true → .nmi ∈ recognised s ∨
      (s.afterSti = true ∧ (pendingNow (passBoundary s)).nmi = true)) ∧
    ((pendingNow s).smi = true → .smi ∈ recognised s ∨
      (s.afterSti = true ∧ (pendingNow (passBoundary s)).smi = true)) ∧
    (recognised s ≠ [] → ∃ k ∈ recognised s, step s = .fault (.interrupted k s))

/-- 10_state.md R43: the reset table (what it leaves open is not stated: logs 1 and 2). -/
def Obligations.ResetTable : Prop :=
  State.reset.eflags = 0x00000002 ∧ State.reset.pc = 0x0000FFF0 ∧ State.reset.cr0 = 0x60000010 ∧
  State.reset.cr2 = 0 ∧ State.reset.cr3 = 0 ∧ State.reset.cr4 = 0 ∧ State.reset.efer = 0 ∧ State.reset.xcr0 = 1 ∧
  State.reset.cs.sel = 0xF000 ∧ State.reset.cs.base = 0xFFFF0000 ∧ State.reset.cs.limit = 0xFFFF ∧
  State.reset.cs.d = false ∧ State.reset.cs.l = false ∧
  (∀ g ∈ [SegName.ss, .ds, .es, .fs, .gs], (segReg State.reset g).sel = 0 ∧ (segReg State.reset g).base = 0 ∧
    (segReg State.reset g).limit = 0xFFFF) ∧
  (∀ j : BitVec 4, j ≠ 0 → j ≠ 2 → (readX State.reset j).extractLsb' 0 32 = 0) ∧
  (∀ j : BitVec 4, 8 ≤ j.toNat → readX State.reset j = 0) ∧
  State.reset.gdtr = ⟨0, 0xFFFF⟩ ∧ State.reset.idtr = ⟨0, 0xFFFF⟩ ∧
  State.reset.ldtr.sel = 0 ∧ State.reset.ldtr.base = 0 ∧ State.reset.ldtr.limit = 0xFFFF ∧
  State.reset.tr.sel = 0 ∧ State.reset.tr.base = 0 ∧ State.reset.tr.limit = 0xFFFF ∧
  State.reset.mxcsr = 0x00001F80 ∧ (∀ j : BitVec 4, readYmm State.reset j = 0) ∧
  mode State.reset = .real ∧ currentCpl State.reset = 0 ∧ State.reset.stiShadow = false ∧
  linearPc State.reset = 0xFFFFFFF0

/-- 10_state.md R44: directly after reset SMSW stores 0010H, in a register of 16 or 32 bits or in memory it can reach; STR,
STMXCSR, the legacy square roots and the VEX forms raise #UD; STC, STD, STI and STOS complete (that STOS does
rests on the launch memory being the whole space after reset, log 7, and on the text being empty, log 9). -/
def Obligations.ResetConsequences : Prop :=
  ∀ (p : Pfx) (v : Vex) (reg n : BitVec 3) (rm : RM) (m : MemForm),
    (p.lock = false → ∀ i ∈ [Instr.smswRm16 p (.reg n), .smswR32M16 p (.reg n)],
      ∃ t, exec i State.reset = .next t ∧
        (readX t (regNum State.reset p.b n)).extractLsb' 0 16 = 0x0010) ∧
    (p.lock = false → ∀ i ∈ [Instr.smswRm16 p (.mem m), .smswR32M16 p (.mem m)],
      accessOk State.reset (operandSeg State.reset (addrBitsOfPfx p) m)
        (effAddr State.reset (addrBitsOfPfx p) (instrLen i) m) 2 .write .plain = true →
      ∃ t, exec i State.reset = .next t ∧
        holdsAt t (operandPhys State.reset (operandSeg State.reset (addrBitsOfPfx p) m)
          (effAddr State.reset (addrBitsOfPfx p) (instrLen i) m) 2) [0x10, 0x00]) ∧
    (∀ i ∈ [Instr.str p rm, .stmxcsr p m, .sqrtpd p reg rm, .sqrtps p reg rm, .sqrtsd p reg rm, .sqrtss p reg rm,
        .vsqrtpdXmm v reg rm, .vsqrtpdYmm v reg rm, .vsqrtpsXmm v reg rm, .vsqrtpsYmm v reg rm, .vsqrtsd v reg rm,
        .vsqrtss v reg rm, .vstmxcsr v m],
      exec i State.reset = .fault (.exception .ud none (faulted State.reset))) ∧
    (p.lock = false → ∀ i ∈ [Instr.stc p, .std p, .sti p, .stosM8 p, .stosM16 p, .stosM32 p],
      ∃ t, exec i State.reset = .next t)
end

