-- ==== Sys2Proof/Laws/State.lean ====
section
/-! SUPPORT. The fields after each state update: one lemma per field per update, all true by rfl. -/

namespace Sys2Proof.Machine

/-! ## setX -/

@[simp] theorem setX_pc (s : State) (i : BitVec 4) (v : BitVec 64) : (setX s i v).pc = s.pc := rfl
@[simp] theorem setX_eflags (s : State) (i : BitVec 4) (v : BitVec 64) : (setX s i v).eflags = s.eflags := rfl
@[simp] theorem setX_ymm (s : State) (i : BitVec 4) (v : BitVec 64) : (setX s i v).ymm = s.ymm := rfl
@[simp] theorem setX_mxcsr (s : State) (i : BitVec 4) (v : BitVec 64) : (setX s i v).mxcsr = s.mxcsr := rfl
@[simp] theorem setX_cr0 (s : State) (i : BitVec 4) (v : BitVec 64) : (setX s i v).cr0 = s.cr0 := rfl
@[simp] theorem setX_cr2 (s : State) (i : BitVec 4) (v : BitVec 64) : (setX s i v).cr2 = s.cr2 := rfl
@[simp] theorem setX_cr3 (s : State) (i : BitVec 4) (v : BitVec 64) : (setX s i v).cr3 = s.cr3 := rfl
@[simp] theorem setX_cr4 (s : State) (i : BitVec 4) (v : BitVec 64) : (setX s i v).cr4 = s.cr4 := rfl
@[simp] theorem setX_xcr0 (s : State) (i : BitVec 4) (v : BitVec 64) : (setX s i v).xcr0 = s.xcr0 := rfl
@[simp] theorem setX_efer (s : State) (i : BitVec 4) (v : BitVec 64) : (setX s i v).efer = s.efer := rfl
@[simp] theorem setX_cs (s : State) (i : BitVec 4) (v : BitVec 64) : (setX s i v).cs = s.cs := rfl
@[simp] theorem setX_ss (s : State) (i : BitVec 4) (v : BitVec 64) : (setX s i v).ss = s.ss := rfl
@[simp] theorem setX_ds (s : State) (i : BitVec 4) (v : BitVec 64) : (setX s i v).ds = s.ds := rfl
@[simp] theorem setX_es (s : State) (i : BitVec 4) (v : BitVec 64) : (setX s i v).es = s.es := rfl
@[simp] theorem setX_fs (s : State) (i : BitVec 4) (v : BitVec 64) : (setX s i v).fs = s.fs := rfl
@[simp] theorem setX_gs (s : State) (i : BitVec 4) (v : BitVec 64) : (setX s i v).gs = s.gs := rfl
@[simp] theorem setX_tr (s : State) (i : BitVec 4) (v : BitVec 64) : (setX s i v).tr = s.tr := rfl
@[simp] theorem setX_ldtr (s : State) (i : BitVec 4) (v : BitVec 64) : (setX s i v).ldtr = s.ldtr := rfl
@[simp] theorem setX_gdtr (s : State) (i : BitVec 4) (v : BitVec 64) : (setX s i v).gdtr = s.gdtr := rfl
@[simp] theorem setX_idtr (s : State) (i : BitVec 4) (v : BitVec 64) : (setX s i v).idtr = s.idtr := rfl
@[simp] theorem setX_cpl (s : State) (i : BitVec 4) (v : BitVec 64) : (setX s i v).cpl = s.cpl := rfl
@[simp] theorem setX_stiShadow (s : State) (i : BitVec 4) (v : BitVec 64) : (setX s i v).stiShadow = s.stiShadow := rfl
@[simp] theorem setX_mem (s : State) (i : BitVec 4) (v : BitVec 64) : (setX s i v).mem = s.mem := rfl
@[simp] theorem setX_alloc (s : State) (i : BitVec 4) (v : BitVec 64) : (setX s i v).alloc = s.alloc := rfl
@[simp] theorem setX_pages (s : State) (i : BitVec 4) (v : BitVec 64) : (setX s i v).pages = s.pages := rfl
@[simp] theorem setX_features (s : State) (i : BitVec 4) (v : BitVec 64) : (setX s i v).features = s.features := rfl
@[simp] theorem setX_text (s : State) (i : BitVec 4) (v : BitVec 64) : (setX s i v).text = s.text := rfl
@[simp] theorem setX_inputs (s : State) (i : BitVec 4) (v : BitVec 64) : (setX s i v).inputs = s.inputs := rfl
@[simp] theorem setX_afterSti (s : State) (i : BitVec 4) (v : BitVec 64) : (setX s i v).afterSti = s.afterSti := rfl
@[simp] theorem setX_freeIdx (s : State) (i : BitVec 4) (v : BitVec 64) : (setX s i v).freeIdx = s.freeIdx := rfl

/-! ## setYmm -/

@[simp] theorem setYmm_x (s : State) (i : BitVec 4) (v : BitVec 256) : (setYmm s i v).x = s.x := rfl
@[simp] theorem setYmm_pc (s : State) (i : BitVec 4) (v : BitVec 256) : (setYmm s i v).pc = s.pc := rfl
@[simp] theorem setYmm_eflags (s : State) (i : BitVec 4) (v : BitVec 256) : (setYmm s i v).eflags = s.eflags := rfl
@[simp] theorem setYmm_mxcsr (s : State) (i : BitVec 4) (v : BitVec 256) : (setYmm s i v).mxcsr = s.mxcsr := rfl
@[simp] theorem setYmm_cr0 (s : State) (i : BitVec 4) (v : BitVec 256) : (setYmm s i v).cr0 = s.cr0 := rfl
@[simp] theorem setYmm_cr2 (s : State) (i : BitVec 4) (v : BitVec 256) : (setYmm s i v).cr2 = s.cr2 := rfl
@[simp] theorem setYmm_cr3 (s : State) (i : BitVec 4) (v : BitVec 256) : (setYmm s i v).cr3 = s.cr3 := rfl
@[simp] theorem setYmm_cr4 (s : State) (i : BitVec 4) (v : BitVec 256) : (setYmm s i v).cr4 = s.cr4 := rfl
@[simp] theorem setYmm_xcr0 (s : State) (i : BitVec 4) (v : BitVec 256) : (setYmm s i v).xcr0 = s.xcr0 := rfl
@[simp] theorem setYmm_efer (s : State) (i : BitVec 4) (v : BitVec 256) : (setYmm s i v).efer = s.efer := rfl
@[simp] theorem setYmm_cs (s : State) (i : BitVec 4) (v : BitVec 256) : (setYmm s i v).cs = s.cs := rfl
@[simp] theorem setYmm_ss (s : State) (i : BitVec 4) (v : BitVec 256) : (setYmm s i v).ss = s.ss := rfl
@[simp] theorem setYmm_ds (s : State) (i : BitVec 4) (v : BitVec 256) : (setYmm s i v).ds = s.ds := rfl
@[simp] theorem setYmm_es (s : State) (i : BitVec 4) (v : BitVec 256) : (setYmm s i v).es = s.es := rfl
@[simp] theorem setYmm_fs (s : State) (i : BitVec 4) (v : BitVec 256) : (setYmm s i v).fs = s.fs := rfl
@[simp] theorem setYmm_gs (s : State) (i : BitVec 4) (v : BitVec 256) : (setYmm s i v).gs = s.gs := rfl
@[simp] theorem setYmm_tr (s : State) (i : BitVec 4) (v : BitVec 256) : (setYmm s i v).tr = s.tr := rfl
@[simp] theorem setYmm_ldtr (s : State) (i : BitVec 4) (v : BitVec 256) : (setYmm s i v).ldtr = s.ldtr := rfl
@[simp] theorem setYmm_gdtr (s : State) (i : BitVec 4) (v : BitVec 256) : (setYmm s i v).gdtr = s.gdtr := rfl
@[simp] theorem setYmm_idtr (s : State) (i : BitVec 4) (v : BitVec 256) : (setYmm s i v).idtr = s.idtr := rfl
@[simp] theorem setYmm_cpl (s : State) (i : BitVec 4) (v : BitVec 256) : (setYmm s i v).cpl = s.cpl := rfl
@[simp] theorem setYmm_stiShadow (s : State) (i : BitVec 4) (v : BitVec 256) : (setYmm s i v).stiShadow = s.stiShadow := rfl
@[simp] theorem setYmm_mem (s : State) (i : BitVec 4) (v : BitVec 256) : (setYmm s i v).mem = s.mem := rfl
@[simp] theorem setYmm_alloc (s : State) (i : BitVec 4) (v : BitVec 256) : (setYmm s i v).alloc = s.alloc := rfl
@[simp] theorem setYmm_pages (s : State) (i : BitVec 4) (v : BitVec 256) : (setYmm s i v).pages = s.pages := rfl
@[simp] theorem setYmm_features (s : State) (i : BitVec 4) (v : BitVec 256) : (setYmm s i v).features = s.features := rfl
@[simp] theorem setYmm_text (s : State) (i : BitVec 4) (v : BitVec 256) : (setYmm s i v).text = s.text := rfl
@[simp] theorem setYmm_inputs (s : State) (i : BitVec 4) (v : BitVec 256) : (setYmm s i v).inputs = s.inputs := rfl
@[simp] theorem setYmm_afterSti (s : State) (i : BitVec 4) (v : BitVec 256) : (setYmm s i v).afterSti = s.afterSti := rfl
@[simp] theorem setYmm_freeIdx (s : State) (i : BitVec 4) (v : BitVec 256) : (setYmm s i v).freeIdx = s.freeIdx := rfl

/-! ## setMem -/

@[simp] theorem setMem_x (s : State) (m : List Host.Cell) : (setMem s m).x = s.x := rfl
@[simp] theorem setMem_pc (s : State) (m : List Host.Cell) : (setMem s m).pc = s.pc := rfl
@[simp] theorem setMem_eflags (s : State) (m : List Host.Cell) : (setMem s m).eflags = s.eflags := rfl
@[simp] theorem setMem_ymm (s : State) (m : List Host.Cell) : (setMem s m).ymm = s.ymm := rfl
@[simp] theorem setMem_mxcsr (s : State) (m : List Host.Cell) : (setMem s m).mxcsr = s.mxcsr := rfl
@[simp] theorem setMem_cr0 (s : State) (m : List Host.Cell) : (setMem s m).cr0 = s.cr0 := rfl
@[simp] theorem setMem_cr2 (s : State) (m : List Host.Cell) : (setMem s m).cr2 = s.cr2 := rfl
@[simp] theorem setMem_cr3 (s : State) (m : List Host.Cell) : (setMem s m).cr3 = s.cr3 := rfl
@[simp] theorem setMem_cr4 (s : State) (m : List Host.Cell) : (setMem s m).cr4 = s.cr4 := rfl
@[simp] theorem setMem_xcr0 (s : State) (m : List Host.Cell) : (setMem s m).xcr0 = s.xcr0 := rfl
@[simp] theorem setMem_efer (s : State) (m : List Host.Cell) : (setMem s m).efer = s.efer := rfl
@[simp] theorem setMem_cs (s : State) (m : List Host.Cell) : (setMem s m).cs = s.cs := rfl
@[simp] theorem setMem_ss (s : State) (m : List Host.Cell) : (setMem s m).ss = s.ss := rfl
@[simp] theorem setMem_ds (s : State) (m : List Host.Cell) : (setMem s m).ds = s.ds := rfl
@[simp] theorem setMem_es (s : State) (m : List Host.Cell) : (setMem s m).es = s.es := rfl
@[simp] theorem setMem_fs (s : State) (m : List Host.Cell) : (setMem s m).fs = s.fs := rfl
@[simp] theorem setMem_gs (s : State) (m : List Host.Cell) : (setMem s m).gs = s.gs := rfl
@[simp] theorem setMem_tr (s : State) (m : List Host.Cell) : (setMem s m).tr = s.tr := rfl
@[simp] theorem setMem_ldtr (s : State) (m : List Host.Cell) : (setMem s m).ldtr = s.ldtr := rfl
@[simp] theorem setMem_gdtr (s : State) (m : List Host.Cell) : (setMem s m).gdtr = s.gdtr := rfl
@[simp] theorem setMem_idtr (s : State) (m : List Host.Cell) : (setMem s m).idtr = s.idtr := rfl
@[simp] theorem setMem_cpl (s : State) (m : List Host.Cell) : (setMem s m).cpl = s.cpl := rfl
@[simp] theorem setMem_stiShadow (s : State) (m : List Host.Cell) : (setMem s m).stiShadow = s.stiShadow := rfl
@[simp] theorem setMem_mem (s : State) (m : List Host.Cell) : (setMem s m).mem = m := rfl
@[simp] theorem setMem_alloc (s : State) (m : List Host.Cell) : (setMem s m).alloc = s.alloc := rfl
@[simp] theorem setMem_pages (s : State) (m : List Host.Cell) : (setMem s m).pages = s.pages := rfl
@[simp] theorem setMem_features (s : State) (m : List Host.Cell) : (setMem s m).features = s.features := rfl
@[simp] theorem setMem_text (s : State) (m : List Host.Cell) : (setMem s m).text = s.text := rfl
@[simp] theorem setMem_inputs (s : State) (m : List Host.Cell) : (setMem s m).inputs = s.inputs := rfl
@[simp] theorem setMem_afterSti (s : State) (m : List Host.Cell) : (setMem s m).afterSti = s.afterSti := rfl
@[simp] theorem setMem_freeIdx (s : State) (m : List Host.Cell) : (setMem s m).freeIdx = s.freeIdx := rfl

/-! ## setMxcsr -/

@[simp] theorem setMxcsr_x (s : State) (v : BitVec 32) : (setMxcsr s v).x = s.x := rfl
@[simp] theorem setMxcsr_pc (s : State) (v : BitVec 32) : (setMxcsr s v).pc = s.pc := rfl
@[simp] theorem setMxcsr_eflags (s : State) (v : BitVec 32) : (setMxcsr s v).eflags = s.eflags := rfl
@[simp] theorem setMxcsr_ymm (s : State) (v : BitVec 32) : (setMxcsr s v).ymm = s.ymm := rfl
@[simp] theorem setMxcsr_mxcsr (s : State) (v : BitVec 32) : (setMxcsr s v).mxcsr = v := rfl
@[simp] theorem setMxcsr_cr0 (s : State) (v : BitVec 32) : (setMxcsr s v).cr0 = s.cr0 := rfl
@[simp] theorem setMxcsr_cr2 (s : State) (v : BitVec 32) : (setMxcsr s v).cr2 = s.cr2 := rfl
@[simp] theorem setMxcsr_cr3 (s : State) (v : BitVec 32) : (setMxcsr s v).cr3 = s.cr3 := rfl
@[simp] theorem setMxcsr_cr4 (s : State) (v : BitVec 32) : (setMxcsr s v).cr4 = s.cr4 := rfl
@[simp] theorem setMxcsr_xcr0 (s : State) (v : BitVec 32) : (setMxcsr s v).xcr0 = s.xcr0 := rfl
@[simp] theorem setMxcsr_efer (s : State) (v : BitVec 32) : (setMxcsr s v).efer = s.efer := rfl
@[simp] theorem setMxcsr_cs (s : State) (v : BitVec 32) : (setMxcsr s v).cs = s.cs := rfl
@[simp] theorem setMxcsr_ss (s : State) (v : BitVec 32) : (setMxcsr s v).ss = s.ss := rfl
@[simp] theorem setMxcsr_ds (s : State) (v : BitVec 32) : (setMxcsr s v).ds = s.ds := rfl
@[simp] theorem setMxcsr_es (s : State) (v : BitVec 32) : (setMxcsr s v).es = s.es := rfl
@[simp] theorem setMxcsr_fs (s : State) (v : BitVec 32) : (setMxcsr s v).fs = s.fs := rfl
@[simp] theorem setMxcsr_gs (s : State) (v : BitVec 32) : (setMxcsr s v).gs = s.gs := rfl
@[simp] theorem setMxcsr_tr (s : State) (v : BitVec 32) : (setMxcsr s v).tr = s.tr := rfl
@[simp] theorem setMxcsr_ldtr (s : State) (v : BitVec 32) : (setMxcsr s v).ldtr = s.ldtr := rfl
@[simp] theorem setMxcsr_gdtr (s : State) (v : BitVec 32) : (setMxcsr s v).gdtr = s.gdtr := rfl
@[simp] theorem setMxcsr_idtr (s : State) (v : BitVec 32) : (setMxcsr s v).idtr = s.idtr := rfl
@[simp] theorem setMxcsr_cpl (s : State) (v : BitVec 32) : (setMxcsr s v).cpl = s.cpl := rfl
@[simp] theorem setMxcsr_stiShadow (s : State) (v : BitVec 32) : (setMxcsr s v).stiShadow = s.stiShadow := rfl
@[simp] theorem setMxcsr_mem (s : State) (v : BitVec 32) : (setMxcsr s v).mem = s.mem := rfl
@[simp] theorem setMxcsr_alloc (s : State) (v : BitVec 32) : (setMxcsr s v).alloc = s.alloc := rfl
@[simp] theorem setMxcsr_pages (s : State) (v : BitVec 32) : (setMxcsr s v).pages = s.pages := rfl
@[simp] theorem setMxcsr_features (s : State) (v : BitVec 32) : (setMxcsr s v).features = s.features := rfl
@[simp] theorem setMxcsr_text (s : State) (v : BitVec 32) : (setMxcsr s v).text = s.text := rfl
@[simp] theorem setMxcsr_inputs (s : State) (v : BitVec 32) : (setMxcsr s v).inputs = s.inputs := rfl
@[simp] theorem setMxcsr_afterSti (s : State) (v : BitVec 32) : (setMxcsr s v).afterSti = s.afterSti := rfl
@[simp] theorem setMxcsr_freeIdx (s : State) (v : BitVec 32) : (setMxcsr s v).freeIdx = s.freeIdx := rfl

/-! ## setFlag -/

@[simp] theorem setFlag_x (b : Nat) (s : State) : (setFlag b s).x = s.x := rfl
@[simp] theorem setFlag_pc (b : Nat) (s : State) : (setFlag b s).pc = s.pc := rfl
@[simp] theorem setFlag_eflags (b : Nat) (s : State) : (setFlag b s).eflags = s.eflags ||| (1#32 <<< b) := rfl
@[simp] theorem setFlag_ymm (b : Nat) (s : State) : (setFlag b s).ymm = s.ymm := rfl
@[simp] theorem setFlag_mxcsr (b : Nat) (s : State) : (setFlag b s).mxcsr = s.mxcsr := rfl
@[simp] theorem setFlag_cr0 (b : Nat) (s : State) : (setFlag b s).cr0 = s.cr0 := rfl
@[simp] theorem setFlag_cr2 (b : Nat) (s : State) : (setFlag b s).cr2 = s.cr2 := rfl
@[simp] theorem setFlag_cr3 (b : Nat) (s : State) : (setFlag b s).cr3 = s.cr3 := rfl
@[simp] theorem setFlag_cr4 (b : Nat) (s : State) : (setFlag b s).cr4 = s.cr4 := rfl
@[simp] theorem setFlag_xcr0 (b : Nat) (s : State) : (setFlag b s).xcr0 = s.xcr0 := rfl
@[simp] theorem setFlag_efer (b : Nat) (s : State) : (setFlag b s).efer = s.efer := rfl
@[simp] theorem setFlag_cs (b : Nat) (s : State) : (setFlag b s).cs = s.cs := rfl
@[simp] theorem setFlag_ss (b : Nat) (s : State) : (setFlag b s).ss = s.ss := rfl
@[simp] theorem setFlag_ds (b : Nat) (s : State) : (setFlag b s).ds = s.ds := rfl
@[simp] theorem setFlag_es (b : Nat) (s : State) : (setFlag b s).es = s.es := rfl
@[simp] theorem setFlag_fs (b : Nat) (s : State) : (setFlag b s).fs = s.fs := rfl
@[simp] theorem setFlag_gs (b : Nat) (s : State) : (setFlag b s).gs = s.gs := rfl
@[simp] theorem setFlag_tr (b : Nat) (s : State) : (setFlag b s).tr = s.tr := rfl
@[simp] theorem setFlag_ldtr (b : Nat) (s : State) : (setFlag b s).ldtr = s.ldtr := rfl
@[simp] theorem setFlag_gdtr (b : Nat) (s : State) : (setFlag b s).gdtr = s.gdtr := rfl
@[simp] theorem setFlag_idtr (b : Nat) (s : State) : (setFlag b s).idtr = s.idtr := rfl
@[simp] theorem setFlag_cpl (b : Nat) (s : State) : (setFlag b s).cpl = s.cpl := rfl
@[simp] theorem setFlag_stiShadow (b : Nat) (s : State) : (setFlag b s).stiShadow = s.stiShadow := rfl
@[simp] theorem setFlag_mem (b : Nat) (s : State) : (setFlag b s).mem = s.mem := rfl
@[simp] theorem setFlag_alloc (b : Nat) (s : State) : (setFlag b s).alloc = s.alloc := rfl
@[simp] theorem setFlag_pages (b : Nat) (s : State) : (setFlag b s).pages = s.pages := rfl
@[simp] theorem setFlag_features (b : Nat) (s : State) : (setFlag b s).features = s.features := rfl
@[simp] theorem setFlag_text (b : Nat) (s : State) : (setFlag b s).text = s.text := rfl
@[simp] theorem setFlag_inputs (b : Nat) (s : State) : (setFlag b s).inputs = s.inputs := rfl
@[simp] theorem setFlag_afterSti (b : Nat) (s : State) : (setFlag b s).afterSti = s.afterSti := rfl
@[simp] theorem setFlag_freeIdx (b : Nat) (s : State) : (setFlag b s).freeIdx = s.freeIdx := rfl

/-! ## retire -/

@[simp] theorem retire_x (n : Nat) (s : State) : (retire n s).x = s.x := rfl
@[simp] theorem retire_pc (n : Nat) (s : State) : (retire n s).pc = nextPc s n := rfl
@[simp] theorem retire_eflags (n : Nat) (s : State) : (retire n s).eflags = s.eflags := rfl
@[simp] theorem retire_ymm (n : Nat) (s : State) : (retire n s).ymm = s.ymm := rfl
@[simp] theorem retire_mxcsr (n : Nat) (s : State) : (retire n s).mxcsr = s.mxcsr := rfl
@[simp] theorem retire_cr0 (n : Nat) (s : State) : (retire n s).cr0 = s.cr0 := rfl
@[simp] theorem retire_cr2 (n : Nat) (s : State) : (retire n s).cr2 = s.cr2 := rfl
@[simp] theorem retire_cr3 (n : Nat) (s : State) : (retire n s).cr3 = s.cr3 := rfl
@[simp] theorem retire_cr4 (n : Nat) (s : State) : (retire n s).cr4 = s.cr4 := rfl
@[simp] theorem retire_xcr0 (n : Nat) (s : State) : (retire n s).xcr0 = s.xcr0 := rfl
@[simp] theorem retire_efer (n : Nat) (s : State) : (retire n s).efer = s.efer := rfl
@[simp] theorem retire_cs (n : Nat) (s : State) : (retire n s).cs = s.cs := rfl
@[simp] theorem retire_ss (n : Nat) (s : State) : (retire n s).ss = s.ss := rfl
@[simp] theorem retire_ds (n : Nat) (s : State) : (retire n s).ds = s.ds := rfl
@[simp] theorem retire_es (n : Nat) (s : State) : (retire n s).es = s.es := rfl
@[simp] theorem retire_fs (n : Nat) (s : State) : (retire n s).fs = s.fs := rfl
@[simp] theorem retire_gs (n : Nat) (s : State) : (retire n s).gs = s.gs := rfl
@[simp] theorem retire_tr (n : Nat) (s : State) : (retire n s).tr = s.tr := rfl
@[simp] theorem retire_ldtr (n : Nat) (s : State) : (retire n s).ldtr = s.ldtr := rfl
@[simp] theorem retire_gdtr (n : Nat) (s : State) : (retire n s).gdtr = s.gdtr := rfl
@[simp] theorem retire_idtr (n : Nat) (s : State) : (retire n s).idtr = s.idtr := rfl
@[simp] theorem retire_cpl (n : Nat) (s : State) : (retire n s).cpl = s.cpl := rfl
@[simp] theorem retire_stiShadow (n : Nat) (s : State) : (retire n s).stiShadow = false := rfl
@[simp] theorem retire_mem (n : Nat) (s : State) : (retire n s).mem = s.mem := rfl
@[simp] theorem retire_alloc (n : Nat) (s : State) : (retire n s).alloc = s.alloc := rfl
@[simp] theorem retire_pages (n : Nat) (s : State) : (retire n s).pages = s.pages := rfl
@[simp] theorem retire_features (n : Nat) (s : State) : (retire n s).features = s.features := rfl
@[simp] theorem retire_text (n : Nat) (s : State) : (retire n s).text = s.text := rfl
@[simp] theorem retire_inputs (n : Nat) (s : State) : (retire n s).inputs = s.inputs := rfl
@[simp] theorem retire_afterSti (n : Nat) (s : State) : (retire n s).afterSti = false := rfl
@[simp] theorem retire_freeIdx (n : Nat) (s : State) : (retire n s).freeIdx = s.freeIdx := rfl

/-! ## faulted -/

@[simp] theorem faulted_x (s : State) : (faulted s).x = s.x := rfl
@[simp] theorem faulted_pc (s : State) : (faulted s).pc = s.pc := rfl
@[simp] theorem faulted_eflags (s : State) : (faulted s).eflags = s.eflags := rfl
@[simp] theorem faulted_ymm (s : State) : (faulted s).ymm = s.ymm := rfl
@[simp] theorem faulted_mxcsr (s : State) : (faulted s).mxcsr = s.mxcsr := rfl
@[simp] theorem faulted_cr0 (s : State) : (faulted s).cr0 = s.cr0 := rfl
@[simp] theorem faulted_cr2 (s : State) : (faulted s).cr2 = s.cr2 := rfl
@[simp] theorem faulted_cr3 (s : State) : (faulted s).cr3 = s.cr3 := rfl
@[simp] theorem faulted_cr4 (s : State) : (faulted s).cr4 = s.cr4 := rfl
@[simp] theorem faulted_xcr0 (s : State) : (faulted s).xcr0 = s.xcr0 := rfl
@[simp] theorem faulted_efer (s : State) : (faulted s).efer = s.efer := rfl
@[simp] theorem faulted_cs (s : State) : (faulted s).cs = s.cs := rfl
@[simp] theorem faulted_ss (s : State) : (faulted s).ss = s.ss := rfl
@[simp] theorem faulted_ds (s : State) : (faulted s).ds = s.ds := rfl
@[simp] theorem faulted_es (s : State) : (faulted s).es = s.es := rfl
@[simp] theorem faulted_fs (s : State) : (faulted s).fs = s.fs := rfl
@[simp] theorem faulted_gs (s : State) : (faulted s).gs = s.gs := rfl
@[simp] theorem faulted_tr (s : State) : (faulted s).tr = s.tr := rfl
@[simp] theorem faulted_ldtr (s : State) : (faulted s).ldtr = s.ldtr := rfl
@[simp] theorem faulted_gdtr (s : State) : (faulted s).gdtr = s.gdtr := rfl
@[simp] theorem faulted_idtr (s : State) : (faulted s).idtr = s.idtr := rfl
@[simp] theorem faulted_cpl (s : State) : (faulted s).cpl = s.cpl := rfl
@[simp] theorem faulted_stiShadow (s : State) : (faulted s).stiShadow = false := rfl
@[simp] theorem faulted_mem (s : State) : (faulted s).mem = s.mem := rfl
@[simp] theorem faulted_alloc (s : State) : (faulted s).alloc = s.alloc := rfl
@[simp] theorem faulted_pages (s : State) : (faulted s).pages = s.pages := rfl
@[simp] theorem faulted_features (s : State) : (faulted s).features = s.features := rfl
@[simp] theorem faulted_text (s : State) : (faulted s).text = s.text := rfl
@[simp] theorem faulted_inputs (s : State) : (faulted s).inputs = s.inputs := rfl
@[simp] theorem faulted_afterSti (s : State) : (faulted s).afterSti = false := rfl
@[simp] theorem faulted_freeIdx (s : State) : (faulted s).freeIdx = s.freeIdx := rfl

/-! ## passBoundary -/

@[simp] theorem passBoundary_x (s : State) : (passBoundary s).x = s.x := rfl
@[simp] theorem passBoundary_pc (s : State) : (passBoundary s).pc = s.pc := rfl
@[simp] theorem passBoundary_eflags (s : State) : (passBoundary s).eflags = s.eflags := rfl
@[simp] theorem passBoundary_ymm (s : State) : (passBoundary s).ymm = s.ymm := rfl
@[simp] theorem passBoundary_mxcsr (s : State) : (passBoundary s).mxcsr = s.mxcsr := rfl
@[simp] theorem passBoundary_cr0 (s : State) : (passBoundary s).cr0 = s.cr0 := rfl
@[simp] theorem passBoundary_cr2 (s : State) : (passBoundary s).cr2 = s.cr2 := rfl
@[simp] theorem passBoundary_cr3 (s : State) : (passBoundary s).cr3 = s.cr3 := rfl
@[simp] theorem passBoundary_cr4 (s : State) : (passBoundary s).cr4 = s.cr4 := rfl
@[simp] theorem passBoundary_xcr0 (s : State) : (passBoundary s).xcr0 = s.xcr0 := rfl
@[simp] theorem passBoundary_efer (s : State) : (passBoundary s).efer = s.efer := rfl
@[simp] theorem passBoundary_cs (s : State) : (passBoundary s).cs = s.cs := rfl
@[simp] theorem passBoundary_ss (s : State) : (passBoundary s).ss = s.ss := rfl
@[simp] theorem passBoundary_ds (s : State) : (passBoundary s).ds = s.ds := rfl
@[simp] theorem passBoundary_es (s : State) : (passBoundary s).es = s.es := rfl
@[simp] theorem passBoundary_fs (s : State) : (passBoundary s).fs = s.fs := rfl
@[simp] theorem passBoundary_gs (s : State) : (passBoundary s).gs = s.gs := rfl
@[simp] theorem passBoundary_tr (s : State) : (passBoundary s).tr = s.tr := rfl
@[simp] theorem passBoundary_ldtr (s : State) : (passBoundary s).ldtr = s.ldtr := rfl
@[simp] theorem passBoundary_gdtr (s : State) : (passBoundary s).gdtr = s.gdtr := rfl
@[simp] theorem passBoundary_idtr (s : State) : (passBoundary s).idtr = s.idtr := rfl
@[simp] theorem passBoundary_cpl (s : State) : (passBoundary s).cpl = s.cpl := rfl
@[simp] theorem passBoundary_stiShadow (s : State) : (passBoundary s).stiShadow = s.stiShadow := rfl
@[simp] theorem passBoundary_mem (s : State) : (passBoundary s).mem = s.mem := rfl
@[simp] theorem passBoundary_alloc (s : State) : (passBoundary s).alloc = s.alloc := rfl
@[simp] theorem passBoundary_pages (s : State) : (passBoundary s).pages = s.pages := rfl
@[simp] theorem passBoundary_features (s : State) : (passBoundary s).features = s.features := rfl
@[simp] theorem passBoundary_text (s : State) : (passBoundary s).text = s.text := rfl
@[simp] theorem passBoundary_afterSti (s : State) : (passBoundary s).afterSti = s.afterSti := rfl

/-! ## What is computed from the fields -/

@[simp] theorem setX_mode (s : State) (i : BitVec 4) (v : BitVec 64) : mode (setX s i v) = mode s := rfl
@[simp] theorem setX_in64 (s : State) (i : BitVec 4) (v : BitVec 64) : in64 (setX s i v) = in64 s := rfl
@[simp] theorem setX_realOrV86 (s : State) (i : BitVec 4) (v : BitVec 64) : realOrV86 (setX s i v) = realOrV86 s := rfl
@[simp] theorem setX_currentCpl (s : State) (i : BitVec 4) (v : BitVec 64) : currentCpl (setX s i v) = currentCpl s := rfl
@[simp] theorem setX_default32 (s : State) (i : BitVec 4) (v : BitVec 64) : default32 (setX s i v) = default32 s := rfl
@[simp] theorem setX_codeCtx (s : State) (i : BitVec 4) (v : BitVec 64) : codeCtx (setX s i v) = codeCtx s := rfl
@[simp] theorem setYmm_mode (s : State) (i : BitVec 4) (v : BitVec 256) : mode (setYmm s i v) = mode s := rfl
@[simp] theorem setYmm_in64 (s : State) (i : BitVec 4) (v : BitVec 256) : in64 (setYmm s i v) = in64 s := rfl
@[simp] theorem setYmm_realOrV86 (s : State) (i : BitVec 4) (v : BitVec 256) : realOrV86 (setYmm s i v) = realOrV86 s := rfl
@[simp] theorem setYmm_currentCpl (s : State) (i : BitVec 4) (v : BitVec 256) : currentCpl (setYmm s i v) = currentCpl s := rfl
@[simp] theorem setYmm_default32 (s : State) (i : BitVec 4) (v : BitVec 256) : default32 (setYmm s i v) = default32 s := rfl
@[simp] theorem setYmm_codeCtx (s : State) (i : BitVec 4) (v : BitVec 256) : codeCtx (setYmm s i v) = codeCtx s := rfl
@[simp] theorem setMem_mode (s : State) (m : List Host.Cell) : mode (setMem s m) = mode s := rfl
@[simp] theorem setMem_in64 (s : State) (m : List Host.Cell) : in64 (setMem s m) = in64 s := rfl
@[simp] theorem setMem_realOrV86 (s : State) (m : List Host.Cell) : realOrV86 (setMem s m) = realOrV86 s := rfl
@[simp] theorem setMem_currentCpl (s : State) (m : List Host.Cell) : currentCpl (setMem s m) = currentCpl s := rfl
@[simp] theorem setMem_default32 (s : State) (m : List Host.Cell) : default32 (setMem s m) = default32 s := rfl
@[simp] theorem setMem_codeCtx (s : State) (m : List Host.Cell) : codeCtx (setMem s m) = codeCtx s := rfl
@[simp] theorem setMxcsr_mode (s : State) (v : BitVec 32) : mode (setMxcsr s v) = mode s := rfl
@[simp] theorem setMxcsr_in64 (s : State) (v : BitVec 32) : in64 (setMxcsr s v) = in64 s := rfl
@[simp] theorem setMxcsr_realOrV86 (s : State) (v : BitVec 32) : realOrV86 (setMxcsr s v) = realOrV86 s := rfl
@[simp] theorem setMxcsr_currentCpl (s : State) (v : BitVec 32) : currentCpl (setMxcsr s v) = currentCpl s := rfl
@[simp] theorem setMxcsr_default32 (s : State) (v : BitVec 32) : default32 (setMxcsr s v) = default32 s := rfl
@[simp] theorem setMxcsr_codeCtx (s : State) (v : BitVec 32) : codeCtx (setMxcsr s v) = codeCtx s := rfl
@[simp] theorem retire_mode (n : Nat) (s : State) : mode (retire n s) = mode s := rfl
@[simp] theorem retire_in64 (n : Nat) (s : State) : in64 (retire n s) = in64 s := rfl
@[simp] theorem retire_realOrV86 (n : Nat) (s : State) : realOrV86 (retire n s) = realOrV86 s := rfl
@[simp] theorem retire_currentCpl (n : Nat) (s : State) : currentCpl (retire n s) = currentCpl s := rfl
@[simp] theorem retire_default32 (n : Nat) (s : State) : default32 (retire n s) = default32 s := rfl
@[simp] theorem retire_codeCtx (n : Nat) (s : State) : codeCtx (retire n s) = codeCtx s := rfl
@[simp] theorem faulted_mode (s : State) : mode (faulted s) = mode s := rfl
@[simp] theorem faulted_in64 (s : State) : in64 (faulted s) = in64 s := rfl
@[simp] theorem faulted_realOrV86 (s : State) : realOrV86 (faulted s) = realOrV86 s := rfl
@[simp] theorem faulted_currentCpl (s : State) : currentCpl (faulted s) = currentCpl s := rfl
@[simp] theorem faulted_default32 (s : State) : default32 (faulted s) = default32 s := rfl
@[simp] theorem faulted_codeCtx (s : State) : codeCtx (faulted s) = codeCtx s := rfl
@[simp] theorem passBoundary_mode (s : State) : mode (passBoundary s) = mode s := rfl
@[simp] theorem passBoundary_in64 (s : State) : in64 (passBoundary s) = in64 s := rfl
@[simp] theorem passBoundary_realOrV86 (s : State) : realOrV86 (passBoundary s) = realOrV86 s := rfl
@[simp] theorem passBoundary_currentCpl (s : State) : currentCpl (passBoundary s) = currentCpl s := rfl
@[simp] theorem passBoundary_default32 (s : State) : default32 (passBoundary s) = default32 s := rfl
@[simp] theorem passBoundary_codeCtx (s : State) : codeCtx (passBoundary s) = codeCtx s := rfl

theorem readX_setX (s : State) (i j : BitVec 4) (v : BitVec 64) :
    readX (setX s i v) j = if i = j then v else readX s j := by
  by_cases h : i = j
  · subst h; simp [readX, setX, Vector.get_eq_getElem]
  · have h' : i.toNat ≠ j.toNat := fun e => h (BitVec.eq_of_toNat_eq e)
    simp [readX, setX, h, Vector.get_eq_getElem, h']

theorem readYmm_setYmm (s : State) (i j : BitVec 4) (v : BitVec 256) :
    readYmm (setYmm s i v) j = if i = j then v else readYmm s j := by
  by_cases h : i = j
  · subst h; simp [readYmm, setYmm, Vector.get_eq_getElem]
  · have h' : i.toNat ≠ j.toNat := fun e => h (BitVec.eq_of_toNat_eq e)
    simp [readYmm, setYmm, h, Vector.get_eq_getElem, h']

@[simp] theorem readX_setX_self (s : State) (i : BitVec 4) (v : BitVec 64) : readX (setX s i v) i = v := by
  simp [readX_setX]

@[simp] theorem readYmm_setYmm_self (s : State) (i : BitVec 4) (v : BitVec 256) : readYmm (setYmm s i v) i = v := by
  simp [readYmm_setYmm]

/-- Setting a flag other than VM leaves the mode (10_state.md R37). -/
theorem setFlag_mode (b : Nat) (s : State) (h : b ≠ 17) : mode (setFlag b s) = mode s := by
  have hv : flagVM (setFlag b s) = flagVM s := by
    have : ¬ (17 = b) := fun e => h e.symm
    by_cases hb : b ≤ 17
    · simp [flagVM]
      intros
      omega
    · simp [flagVM]
      omega
  simp only [mode, hv]
  rfl

end Sys2Proof.Machine
end

