-- ==== Sys2Proof/Laws/Ops.lean ====
section
/-! SUPPORT. What each shared operation can do, said once. -/

namespace Sys2Proof.Machine

/-! ## Outcomes -/

@[simp] theorem andThen_next {α β : Type} (a : α) (f : α → Host.Outcome β Fault Refusal) :
    andThen (.next a) f = f a := rfl
@[simp] theorem andThen_fault {α β : Type} (r : Fault) (f : α → Host.Outcome β Fault Refusal) :
    andThen (.fault r) f = .fault r := rfl
@[simp] theorem andThen_refused {α β : Type} (r : Refusal) (f : α → Host.Outcome β Fault Refusal) :
    andThen (.refused r) f = .refused r := rfl

/-- A bind answers a next state exactly when both parts do. -/
theorem andThen_eq_next {α β : Type} {o : Host.Outcome α Fault Refusal} {f : α → Host.Outcome β Fault Refusal} {b : β} :
    andThen o f = .next b ↔ ∃ a, o = .next a ∧ f a = .next b := by
  cases o <;> simp

/-- A bind faults when the first part does, or the second after the first answered. -/
theorem andThen_eq_fault {α β : Type} {o : Host.Outcome α Fault Refusal} {f : α → Host.Outcome β Fault Refusal}
    {r : Fault} : andThen o f = .fault r ↔ o = .fault r ∨ ∃ a, o = .next a ∧ f a = .fault r := by
  cases o <;> simp

/-- Raising never answers. -/
@[simp] theorem raise_ne_next {α : Type} (s : State) (e : Exc) (c : BitVec 32) (a : α) :
    (raise s e c : Host.Outcome α Fault Refusal) ≠ .next a := by simp [raise]

@[simp] theorem raise_eq_fault {α : Type} (s : State) (e : Exc) (c : BitVec 32) (f : Fault) :
    (raise s e c : Host.Outcome α Fault Refusal) = .fault f ↔
      .exception e (if excHasCode e && mode s != .real then some c else none) (faulted s) = f := by
  simp [raise]

@[simp] theorem raise_ne_refused {α : Type} (s : State) (e : Exc) (c : BitVec 32) (r : Refusal) :
    (raise s e c : Host.Outcome α Fault Refusal) ≠ .refused r := by simp [raise]

/-! ## Reading a ModR/M form -/

/-- A form with a ModR/M byte is read on exactly when nothing stops it and its operand is complete (30_encoding.md
R100). -/
theorem withModRM_eq_ok {a : AddrSize} {stop : ModRM → Option DecodeResult}
    {row : BitVec 3 → RM → List Byte → DecodeResult} {bs rest : List Byte} {i : Instr}
    (hs : ∀ f, stop f ≠ some (.ok i rest)) :
    withModRM a stop row bs = .ok i rest ↔
      ∃ b tl rm r, bs = b :: tl ∧ stop (modRMOfByte b) = none ∧ takeRM a (modRMOfByte b) tl = some (rm, r) ∧
        row (modRMOfByte b).reg rm r = .ok i rest := by
  cases bs with
  | nil => simp [withModRM]
  | cons b tl =>
    simp only [withModRM, List.cons.injEq]
    constructor
    · intro h
      cases hst : stop (modRMOfByte b) with
      | some x => exact absurd (by rw [hst, ← h, hst]) (hs (modRMOfByte b))
      | none =>
        cases ht : takeRM a (modRMOfByte b) tl with
        | none => simp [hst, ht] at h
        | some x => exact ⟨b, tl, x.1, x.2, ⟨rfl, rfl⟩, hst, ht, by simpa [hst, ht] using h⟩
    · rintro ⟨_, _, rm, r, ⟨rfl, rfl⟩, hst, ht, hr⟩
      simpa [hst, ht] using hr

/-! ## Segment bases (10_state.md R35) -/

/-- In real-address and virtual-8086 mode the base of a segment other than CS is its selector times 16. -/
theorem segBase_of_realOrV86 {s : State} {name : SegName} (h : realOrV86 s = true) (hn : name ≠ .cs) :
    segBase s name = (segReg s name).sel.setWidth 64 * 16 := by
  have h64 : in64 s = false := by
    revert h
    unfold realOrV86 in64
    cases mode s <;> decide
  have hc : (name == .cs) = false := by simpa using hn
  simp [segBase, h64, h, hc]

/-- In protected and compatibility mode the base of a segment is the hidden one. -/
theorem segBase_of_protected {s : State} {name : SegName} (h64 : in64 s = false) (h : realOrV86 s = false) :
    segBase s name = (segReg s name).base := by
  simp [segBase, h64, h]

/-! ## SegCheck (20_memory.md R60) -/

/-- A failure of the rights is #GP outside SS. -/
theorem rightsExc_of_ne_ss {s : State} {name : SegName} {kind : Access} {rule : AccessRule} (h : name ≠ .ss) :
    rightsExc s name kind rule = .gp := by simp [rightsExc, h]

/-- A failure of the rights through SS is #SS for the two stores of MXCSR. -/
@[simp] theorem rightsExc_ss_mxcsrStore (s : State) (kind : Access) : rightsExc s .ss kind .mxcsrStore = .ss := rfl

/-- A failure of the rights of any other write is #GP, through SS too. -/
theorem rightsExc_write {s : State} {name : SegName} {rule : AccessRule} (h : rule ≠ .mxcsrStore) :
    rightsExc s name .write rule = .gp := by simp [rightsExc, h]

/-- A failure of the rights is #GP or #SS. -/
theorem rightsExc_gp_or_ss (s : State) (name : SegName) (kind : Access) (rule : AccessRule) :
    rightsExc s name kind rule = .gp ∨ rightsExc s name kind rule = .ss := by
  unfold rightsExc
  repeat' split
  all_goals simp

/-- SegCheck passes exactly when neither the limit nor the rights fail. -/
theorem segCheck_eq_none {s : State} {name : SegName} {off : BitVec 64} {n : Nat} {kind : Access} {rule : AccessRule} :
    segCheck s name off n kind rule = none ↔ limitFault s name off n = false ∧ rightsFault s name kind rule = false := by
  unfold segCheck
  cases limitFault s name off n <;> cases rightsFault s name kind rule <;> simp

/-- The exception of a failed SegCheck: #SS through SS only, else #GP. -/
theorem segCheck_eq_some {s : State} {name : SegName} {off : BitVec 64} {n : Nat} {kind : Access} {rule : AccessRule}
    {e : Exc} (h : segCheck s name off n kind rule = some e) : e = .gp ∨ (e = .ss ∧ name = .ss) := by
  unfold segCheck at h
  by_cases hn : name = .ss
  · rcases rightsExc_gp_or_ss s name kind rule with hr | hr <;> (repeat' split at h) <;> simp_all
  · simp only [hn, if_false, rightsExc_of_ne_ss hn] at h
    repeat' split at h
    all_goals simp_all

/-! ## The byte store -/

/-- A store whose first address is beyond `p` reads as unlisted at `p`. -/
theorem memRead_of_wfFrom {m : List Host.Cell} {lo p : Nat} (h : Memory.wfFrom lo m = true) (hp : p < lo) :
    memRead m p = unlistedByte := by
  induction m generalizing lo with
  | nil => rfl
  | cons c r ih =>
    obtain ⟨a, b⟩ := c
    simp only [Memory.wfFrom, Bool.and_eq_true, decide_eq_true_eq] at h
    have : a ≠ p := by omega
    simp [memRead, this]
    exact ih h.2 (by omega)

theorem wfFrom_mono {m : List Host.Cell} {lo lo' : Nat} (h : Memory.wfFrom lo m = true) (hl : lo' ≤ lo) :
    Memory.wfFrom lo' m = true := by
  cases m with
  | nil => rfl
  | cons c r =>
    obtain ⟨a, b⟩ := c
    simp only [Memory.wfFrom, Bool.and_eq_true, decide_eq_true_eq] at h ⊢
    exact ⟨⟨by omega, h.1.2⟩, h.2⟩

/-- Writing one byte keeps the canonical form. -/
theorem memWrite_wfFrom {m : List Host.Cell} {lo p : Nat} (v : Byte) (h : Memory.wfFrom lo m = true) (hp : lo ≤ p) :
    Memory.wfFrom lo (memWrite m p v) = true := by
  induction m generalizing lo with
  | nil =>
    by_cases hv : v = unlistedByte <;> simp [memWrite, Memory.wfFrom, hv, hp]
  | cons c r ih =>
    obtain ⟨a, b⟩ := c
    simp only [Memory.wfFrom, Bool.and_eq_true, decide_eq_true_eq] at h
    simp only [memWrite]
    split
    · split
      · simp [Memory.wfFrom, h.1.1, h.1.2, h.2]
      · rename_i h1 h2
        simp only [Memory.wfFrom, Bool.and_eq_true, decide_eq_true_eq, bne_iff_ne]
        exact ⟨⟨hp, h2⟩, ⟨by omega, by simpa using h.1.2⟩, h.2⟩
    · split
      · split
        · exact wfFrom_mono h.2 (by omega)
        · rename_i h1 h2 h3
          simp only [Memory.wfFrom, Bool.and_eq_true, decide_eq_true_eq, bne_iff_ne]
          exact ⟨⟨hp, h3⟩, by rw [h2]; exact h.2⟩
      · simp only [Memory.wfFrom, Bool.and_eq_true, decide_eq_true_eq]
        exact ⟨⟨h.1.1, h.1.2⟩, ih h.2 (by omega)⟩

/-- Reading back after one byte was written. -/
theorem memRead_memWrite {m : List Host.Cell} {lo : Nat} (p q : Nat) (v : Byte) (h : Memory.wfFrom lo m = true) :
    memRead (memWrite m p v) q = if q = p then v else memRead m q := by
  induction m generalizing lo with
  | nil =>
    by_cases hv : v = unlistedByte <;> by_cases hq : q = p <;> simp [memWrite, memRead, hv, hq]
    intro e; exact absurd e.symm hq
  | cons c r ih =>
    obtain ⟨a, b⟩ := c
    simp only [Memory.wfFrom, Bool.and_eq_true, decide_eq_true_eq] at h
    simp only [memWrite]
    split
    · rename_i hpa
      split
      · rename_i hv
        by_cases hq : q = p
        · subst hq
          have : a ≠ q := by omega
          simp [memRead, this, hv, memRead_of_wfFrom h.2 (show q < a + 1 by omega)]
        · simp [hq]
      · by_cases hq : q = p
        · simp [memRead, hq]
        · have : ¬ p = q := fun e => hq e.symm
          simp [memRead, hq, this]
    · split
      · rename_i h1 hpa
        subst hpa
        split
        · rename_i hv
          by_cases hq : q = p
          · subst hq
            simp [hv, memRead_of_wfFrom h.2 (show q < q + 1 by omega)]
          · have : ¬ p = q := fun e => hq e.symm
            simp [memRead, hq, this]
        · by_cases hq : q = p
          · simp [memRead, hq]
          · have : ¬ p = q := fun e => hq e.symm
            simp [memRead, hq, this]
      · rename_i h1 h2
        by_cases hq : q = a
        · subst hq
          have : ¬ q = p := fun e => h2 e.symm
          simp [memRead, this]
        · have ha : ¬ a = q := fun e => hq e.symm
          simp [memRead, ha, ih h.2]

/-- The canonical form of the store is kept by a write of one byte. -/
theorem memWrite_wf {m : List Host.Cell} (p : Nat) (v : Byte) (h : Memory.wf m = true) :
    Memory.wf (memWrite m p v) = true := memWrite_wfFrom v h (Nat.zero_le p)

/-- The canonical form of the store is kept by a write of several bytes. -/
theorem memWriteAll_wf {m : List Host.Cell} (l : List (Nat × Byte)) (h : Memory.wf m = true) :
    Memory.wf (memWriteAll m l) = true := by
  induction l generalizing m with
  | nil => exact h
  | cons c r ih => exact ih (memWrite_wf c.1 c.2 h)

/-- A byte at none of the addresses written reads as before. -/
theorem memRead_memWriteAll_of_notMem {m : List Host.Cell} {l : List (Nat × Byte)} {q : Nat}
    (h : Memory.wf m = true) (hq : q ∉ l.map Prod.fst) : memRead (memWriteAll m l) q = memRead m q := by
  induction l generalizing m with
  | nil => rfl
  | cons c r ih =>
    simp only [List.map_cons, List.mem_cons, not_or] at hq
    rw [memWriteAll, ih (memWrite_wf c.1 c.2 h) hq.2, memRead_memWrite c.1 q c.2 h, if_neg hq.1]

/-- Bytes written to distinct addresses read back. -/
theorem memRead_memWriteAll_of_mem {m : List Host.Cell} {l : List (Nat × Byte)} {c : Nat × Byte}
    (h : Memory.wf m = true) (hn : (l.map Prod.fst).Nodup) (hc : c ∈ l) : memRead (memWriteAll m l) c.1 = c.2 := by
  induction l generalizing m with
  | nil => simp at hc
  | cons d r ih =>
    simp only [List.map_cons, List.nodup_cons] at hn
    rcases List.mem_cons.mp hc with rfl | hr
    · rw [memWriteAll, memRead_memWriteAll_of_notMem (memWrite_wf _ _ h) hn.1, memRead_memWrite _ _ _ h, if_pos rfl]
    · exact ih (memWrite_wf _ _ h) hn.2 hr

/-! ## Translation and segmented access -/

/-- All that `Translate` can do: a page fault where `pageFaults` says so, else the physical address. -/
theorem translate_eq (s : State) (kind : Access) (a : BitVec 64) :
    translate s kind a =
      if pageFaults s kind a then
        raise { s with cr2 := a } .pf (pageFaultCode s kind ((pageOf s a).elim false PageRange.present))
      else .next (physOf s a) := by
  unfold translate pageFaults physOf
  cases hpg : cr0PG s
  · simp
  · cases hp : pageOf s a with
    | none => simp
    | some r => simp

/-- `Translate` of every byte answers exactly when no byte faults. -/
theorem translateAll_eq_next {s : State} {kind : Access} {as : List (BitVec 64)} {ps : List Nat} :
    translateAll s kind as = .next ps ↔
      as.all (fun a => !pageFaults s kind a) = true ∧ ps = as.map (physOf s) := by
  induction as generalizing ps with
  | nil => simp [translateAll, eq_comm]
  | cons a as ih =>
    simp only [translateAll, andThen_eq_next, translate_eq, ih, List.all_cons, List.map_cons, Bool.and_eq_true]
    cases h : pageFaults s kind a
    · simp only [Bool.false_eq_true, if_false, Host.Outcome.next.injEq, Bool.not_false, true_and]
      constructor
      · rintro ⟨p, rfl, qs, ⟨hq, rfl⟩, rfl⟩
        exact ⟨hq, rfl⟩
      · rintro ⟨hq, rfl⟩
        exact ⟨_, rfl, _, ⟨hq, rfl⟩, rfl⟩
    · simp

/-- Every linear address that `Translate` sends to `p` is among `linearsTo`. -/
theorem mem_linearsTo {s : State} {kind : Access} {a : BitVec 64} {p : Nat} (h : translate s kind a = .next p) :
    a ∈ linearsTo s p := by
  have ofNat_toNat : BitVec.ofNat 64 a.toNat = a := by simp
  unfold translate at h
  cases hpg : cr0PG s with
  | false =>
    simp only [hpg, Bool.not_false, if_true, Host.Outcome.next.injEq] at h
    simp [linearsTo, ← h]
  | true =>
    cases hp : pageOf s a with
    | none =>
      simp only [hpg, hp, Bool.not_true, Bool.false_eq_true, if_false, Host.Outcome.next.injEq] at h
      simp [linearsTo, ← h]
    | some r =>
      simp only [hpg, hp, Bool.not_true, Bool.false_eq_true, if_false] at h
      split at h
      · exact absurd h (raise_ne_next _ _ _ _)
      · simp only [Host.Outcome.next.injEq] at h
        have hm : r ∈ s.pages := List.mem_of_find?_eq_some hp
        have hr := List.find?_some hp
        simp only [Bool.and_eq_true, decide_eq_true_eq] at hr
        have e : r.lin + (p - r.phys) = a.toNat := by omega
        exact List.mem_cons_of_mem _ (List.mem_map.mpr ⟨r, hm, by rw [e, ofNat_toNat]⟩)

/-- What a fetch at a linear address reads. -/
theorem fetchesFrom_eq_true {s : State} {p : Nat} {a : BitVec 64} :
    fetchesFrom s p a = true ↔ pageFaults s .execute a = false ∧ physOf s a = p := by
  unfold fetchesFrom
  rw [translate_eq]
  cases pageFaults s .execute a <;> simp [raise]

/-- A physical address is a text cell exactly when some byte of the program text is fetched from it. -/
theorem textCell_eq_true {s : State} {p : Nat} :
    textCell s p = true ↔ ∃ a, inText s a = true ∧ pageFaults s .execute a = false ∧ physOf s a = p := by
  simp only [textCell, List.any_eq_true, Bool.and_eq_true, fetchesFrom_eq_true]
  constructor
  · rintro ⟨a, -, h⟩
    exact ⟨a, h⟩
  · rintro ⟨a, ht, hf, hp⟩
    refine ⟨a, mem_linearsTo (kind := .execute) ?_, ht, hf, hp⟩
    simp [translate_eq, hf, hp]

/-- A page that may be written may be fetched from (20_memory.md R61). -/
theorem pageFaults_execute_of_write {s : State} {a : BitVec 64} (h : pageFaults s .write a = false) :
    pageFaults s .execute a = false := by
  have hx : (Access.execute == Access.write) = false := rfl
  unfold pageFaults pageDenies at *
  cases hpg : cr0PG s
  · rfl
  · cases hp : pageOf s a with
    | none => simp
    | some r =>
      simp only [hpg, hp, Bool.true_and, Bool.or_eq_false_iff, hx, Bool.false_and, Bool.or_false] at h ⊢
      exact ⟨h.1, h.2.1⟩

/-- The last checks answer exactly when no text is written and every byte is allocated. -/
theorem storeChecks_eq_next {s : State} {kind : Access} {ps qs : List Nat} :
    storeChecks s kind ps = .next qs ↔
      (kind != .write || ps.all (fun p => !textCell s p)) = true ∧ ps.all (allocated s) = true ∧ qs = ps := by
  have hany : (kind == .write && ps.any (textCell s)) = !(kind != .write || ps.all fun p => !textCell s p) := by
    rw [← List.not_any_eq_all_not]
    cases kind <;> simp [bne]
  unfold storeChecks
  rw [hany]
  cases h : (kind != .write || ps.all fun p => !textCell s p)
  · simp
  · cases hf : ps.find? (fun p => !allocated s p) with
    | some p =>
      have h1 := List.find?_some hf
      have hm := List.mem_of_find?_eq_some hf
      constructor
      · intro h2
        cases h2
      · rintro ⟨-, hall, -⟩
        have := List.all_eq_true.mp hall p hm
        simp [this] at h1
    | none =>
      have hall : ps.all (allocated s) = true := by
        simpa using hf
      simp only [Bool.not_true, Bool.false_eq_true, if_false, Host.Outcome.next.injEq, hall, true_and]
      exact eq_comm

/-- `checkAccess` answers exactly when the operand can be accessed, and then with its physical addresses. -/
theorem checkAccess_eq_next {s : State} {name : SegName} {off : BitVec 64} {n : Nat} {kind : Access}
    {rule : AccessRule} {ps : List Nat} :
    checkAccess s name off n kind rule = .next ps ↔
      accessOk s name off n kind rule = true ∧ ps = operandPhys s name off n := by
  unfold checkAccess accessOk operandPhys operandAddrs
  cases hs : segCheck s name off n kind rule with
  | some e => simp
  | none =>
    simp only [Option.isNone_none, Bool.true_and]
    by_cases hc : (in64 s && !(byteAddrs s (linearAddr s name off) n).all canonical) = true
    · have : (!in64 s || (byteAddrs s (linearAddr s name off) n).all canonical) = false := by
        simp only [Bool.and_eq_true, Bool.not_eq_true'] at hc
        simp [hc.1, hc.2]
      rw [if_pos hc, this]
      simp
    · have : (!in64 s || (byteAddrs s (linearAddr s name off) n).all canonical) = true := by
        revert hc
        cases in64 s <;> cases (byteAddrs s (linearAddr s name off) n).all canonical <;> simp
      rw [if_neg hc, this]
      cases ha : alignFault s (linearAddr s name off) n rule with
      | some e => simp
      | none =>
        simp only [Option.isNone_none, Bool.true_and, andThen_eq_next, translateAll_eq_next, storeChecks_eq_next,
          Bool.and_eq_true]
        constructor
        · rintro ⟨qs, ⟨h1, rfl⟩, h2, h3, rfl⟩
          exact ⟨⟨⟨h1, h2⟩, h3⟩, rfl⟩
        · rintro ⟨⟨⟨h1, h2⟩, h3⟩, rfl⟩
          exact ⟨_, ⟨h1, rfl⟩, h2, h3, rfl⟩

/-- What `SegRead` answers. -/
theorem segRead_eq_next {s : State} {name : SegName} {off : BitVec 64} {n : Nat} {rule : AccessRule}
    {bs : List Byte} :
    segRead s name off n rule = .next bs ↔
      accessOk s name off n .read rule = true ∧ bs = (operandPhys s name off n).map (memRead s.mem) := by
  simp only [segRead, andThen_eq_next, checkAccess_eq_next, Host.Outcome.next.injEq]
  constructor
  · rintro ⟨_, ⟨h, rfl⟩, rfl⟩
    exact ⟨h, rfl⟩
  · rintro ⟨h, rfl⟩
    exact ⟨_, ⟨h, rfl⟩, rfl⟩

/-- What `SegWrite` answers: only memory changes, and only at the operand's physical addresses. -/
theorem segWrite_eq_next {s t : State} {name : SegName} {off : BitVec 64} {bytes : List Byte} {rule : AccessRule} :
    segWrite s name off bytes rule = .next t ↔
      accessOk s name off bytes.length .write rule = true ∧
        t = setMem s (memWriteAll s.mem ((operandPhys s name off bytes.length).zip bytes)) := by
  simp only [segWrite, andThen_eq_next, checkAccess_eq_next, Host.Outcome.next.injEq]
  constructor
  · rintro ⟨_, ⟨h, rfl⟩, rfl⟩
    exact ⟨h, rfl⟩
  · rintro ⟨h, rfl⟩
    exact ⟨_, ⟨h, rfl⟩, rfl⟩

/-- What reading a source answers (41_sqrt.md R118). -/
theorem readVec_eq_next {w : Nat} {s : State} {e : AddrBits} {len : Nat} {rm : RM} {rule : AccessRule}
    {v : BitVec w} :
    readVec w s e len rm rule = .next v ↔ sourceOk w s e len rm rule = true ∧ v = sourceValue w s e len rm := by
  cases rm with
  | reg n => simp [readVec, sourceOk, sourceValue, eq_comm]
  | mem m =>
    simp only [readVec, sourceOk, sourceValue, andThen_eq_next, segRead_eq_next, Host.Outcome.next.injEq]
    constructor
    · rintro ⟨_, ⟨h, rfl⟩, rfl⟩
      exact ⟨h, rfl⟩
    · rintro ⟨h, rfl⟩
      exact ⟨_, ⟨h, rfl⟩, rfl⟩

/-- What the numeric step answers: no unmasked condition, and then MXCSR gains the flags (41_sqrt.md R126). -/
theorem numericStep_eq_next {s t : State} {fs : List FpFlags} :
    numericStep s fs = .next t ↔
      (preFault s fs || postFault s fs) = false ∧ t = setMxcsr s (s.mxcsr ||| allFlagBits fs) := by
  unfold numericStep
  cases h : preFault s fs || postFault s fs
  · simp [eq_comm]
  · simp

end Sys2Proof.Machine
end

