-- ==== Sys2Proof/Laws/Exec.lean ====
section
/-! SUPPORT. What the operations that the meanings share can do, said once. -/

namespace Sys2Proof.Machine

/-- The legacy checks pass exactly when every condition of 41_sqrt.md R127 is met. -/
theorem legacySseCheck_eq_none {s : State} {lock has : Bool} :
    legacySseCheck s lock has = none ↔
      lock = false ∧ cr0EM s = false ∧ cr4OSFXSR s = true ∧ has = true ∧ cr0TS s = false := by
  unfold legacySseCheck
  cases lock <;> cases cr0EM s <;> cases cr4OSFXSR s <;> cases has <;> cases cr0TS s <;> simp

/-- The VEX checks pass exactly when every condition of 41_sqrt.md R127 is met. -/
theorem vexCheck_eq_none {s : State} {reserved : Bool} :
    vexCheck s reserved = none ↔
      realOrV86 s = false ∧ s.features.hasAvx = true ∧ cr4OSXSAVE s = true ∧ xcr0SseAvx s = 3 ∧ reserved = false ∧
        cr0TS s = false := by
  unfold vexCheck
  by_cases hx : xcr0SseAvx s = 3#2
  · cases realOrV86 s <;> cases s.features.hasAvx <;> cases cr4OSXSAVE s <;> cases reserved <;> cases cr0TS s <;>
      simp [hx]
  · cases realOrV86 s <;> cases s.features.hasAvx <;> cases cr4OSXSAVE s <;> simp [hx]

/-- A check that fails raises #UD or #NM. -/
theorem legacySseCheck_eq_some {s : State} {lock has : Bool} {x : Exc} (h : legacySseCheck s lock has = some x) :
    x = .ud ∨ x = .nm := by
  revert h
  unfold legacySseCheck
  cases lock <;> cases cr0EM s <;> cases cr4OSFXSR s <;> cases has <;> cases cr0TS s <;> simp <;>
    (intro h; simp [← h])

/-- A check that fails raises #UD or #NM. -/
theorem vexCheck_eq_some {s : State} {reserved : Bool} {x : Exc} (h : vexCheck s reserved = some x) :
    x = .ud ∨ x = .nm := by
  revert h
  unfold vexCheck
  by_cases hx : xcr0SseAvx s = 3#2
  · cases realOrV86 s <;> cases s.features.hasAvx <;> cases cr4OSXSAVE s <;> cases reserved <;> cases cr0TS s <;>
      simp [hx] <;> (intro h; simp [← h])
  · cases realOrV86 s <;> cases s.features.hasAvx <;> cases cr4OSXSAVE s <;> simp [hx] <;> (intro h; simp [← h])

@[simp] theorem leBytes_length {w : Nat} (n : Nat) (v : BitVec w) : (leBytes n v).length = n := by simp [leBytes]

/-- What a store to a memory operand answers. -/
theorem storeMem_eq_next {s t : State} {e : AddrBits} {len : Nat} {m : MemForm} {bytes : List Byte} {rule : AccessRule} :
    storeMem s e len m bytes rule = .next t ↔
      accessOk s (operandSeg s e m) (effAddr s e len m) bytes.length .write rule = true ∧
        t = setMem s (memWriteAll s.mem
          ((operandPhys s (operandSeg s e m) (effAddr s e len m) bytes.length).zip bytes)) :=
  segWrite_eq_next

/-- What the memory form of SMSW answers (40_smsw.md R113). -/
theorem smswToMem_eq_next {s t : State} {len : Nat} {p : Pfx} {m : MemForm} :
    smswToMem len p m s = .next t ↔
      accessOk s (operandSeg s (addrBitsOfPfx p) m) (effAddr s (addrBitsOfPfx p) len m) 2 .write .plain = true ∧
        t = retire len (setMem s (memWriteAll s.mem
          ((operandPhys s (operandSeg s (addrBitsOfPfx p) m) (effAddr s (addrBitsOfPfx p) len m) 2).zip
            (leBytes 2 (msw s))))) := by
  simp only [smswToMem, andThen_eq_next, storeMem_eq_next, leBytes_length, Host.Outcome.next.injEq]
  constructor
  · rintro ⟨_, ⟨h, rfl⟩, rfl⟩
    exact ⟨h, rfl⟩
  · rintro ⟨h, rfl⟩
    exact ⟨_, ⟨h, rfl⟩, rfl⟩

/-- What the store of STMXCSR and VSTMXCSR answers (43_stmxcsr.md R155). -/
theorem mxcsrToMem_eq_next {s t : State} {len : Nat} {e : AddrBits} {m : MemForm} :
    mxcsrToMem len e m s = .next t ↔
      accessOk s (operandSeg s e m) (effAddr s e len m) 4 .write .mxcsrStore = true ∧
        t = retire len (setMem s (memWriteAll s.mem
          ((operandPhys s (operandSeg s e m) (effAddr s e len m) 4).zip (leBytes 4 (storedMxcsr s))))) := by
  simp only [mxcsrToMem, andThen_eq_next, storeMem_eq_next, leBytes_length, Host.Outcome.next.injEq]
  constructor
  · rintro ⟨_, ⟨h, rfl⟩, rfl⟩
    exact ⟨h, rfl⟩
  · rintro ⟨h, rfl⟩
    exact ⟨_, ⟨h, rfl⟩, rfl⟩

/-- What STOS of `n` bytes answers (44_stos.md R173). -/
theorem stos_eq_next {s t : State} {n len : Nat} {p : Pfx} :
    stos n len p s = .next t ↔
      p.lock = false ∧
      accessOk s .es (addrReg s (addrSize (codeCtx s) p.adsz) 7) n .write .plain = true ∧
        t = retire len (writeGpr
          (setMem s (memWriteAll s.mem
            ((operandPhys s .es (addrReg s (addrSize (codeCtx s) p.adsz) 7) n).zip (leBytes n (readX s 0)))))
          7 (indexSize (addrSize (codeCtx s) p.adsz)) (nextIndex s (addrSize (codeCtx s) p.adsz) n)) := by
  unfold stos
  cases hl : p.lock
  · simp only [Bool.false_eq_true, if_false, andThen_eq_next, segWrite_eq_next, leBytes_length,
      Host.Outcome.next.injEq, true_and]
    constructor
    · rintro ⟨_, ⟨h, rfl⟩, rfl⟩
      exact ⟨h, rfl⟩
    · rintro ⟨h, rfl⟩
      exact ⟨_, ⟨h, rfl⟩, rfl⟩
  · simp

/-- What a square root answers after its availability checks (41_sqrt.md R140). -/
theorem sqrtBody_eq_next {w : Nat} {e : AddrBits} {len : Nat} {dst : BitVec 4} {rm : RM} {rule : AccessRule}
    {f : BitVec w → BitVec 2 → Bool → BitVec w × List FpFlags} {dest : BitVec w → BitVec 256} {s t : State} :
    sqrtBody w e len dst rm rule f dest s = .next t ↔
      sourceOk w s e len rm rule = true ∧
      (preFault s (f (sourceValue w s e len rm) (mxcsrRC s) (mxcsrDAZ s)).2 ||
        postFault s (f (sourceValue w s e len rm) (mxcsrRC s) (mxcsrDAZ s)).2) = false ∧
      t = retire len (setYmm
        (setMxcsr s (s.mxcsr ||| allFlagBits (f (sourceValue w s e len rm) (mxcsrRC s) (mxcsrDAZ s)).2))
        dst (dest (f (sourceValue w s e len rm) (mxcsrRC s) (mxcsrDAZ s)).1)) := by
  simp only [sqrtBody, andThen_eq_next, readVec_eq_next, numericStep_eq_next, Host.Outcome.next.injEq]
  constructor
  · rintro ⟨_, ⟨h, rfl⟩, _, ⟨h2, rfl⟩, rfl⟩
    exact ⟨h, h2, rfl⟩
  · rintro ⟨h, h2, rfl⟩
    exact ⟨_, ⟨h, rfl⟩, _, ⟨h2, rfl⟩, rfl⟩

/-- The bit-by-bit root stays a root rounded down from its start on. -/
theorem isqrtFrom_spec (n : Nat) : ∀ (b acc : Nat), acc * acc ≤ n → n < (acc + 2 ^ b) * (acc + 2 ^ b) →
    isqrtFrom n b acc * isqrtFrom n b acc ≤ n ∧ n < (isqrtFrom n b acc + 1) * (isqrtFrom n b acc + 1)
  | 0, acc, h1, h2 => by simpa [isqrtFrom] using ⟨h1, h2⟩
  | b + 1, acc, h1, h2 => by
    have e : acc + 2 ^ (b + 1) = acc + 2 ^ b + 2 ^ b := by ring
    rw [e] at h2
    unfold isqrtFrom
    split
    · rename_i hle
      exact isqrtFrom_spec n b (acc + 2 ^ b) hle h2
    · rename_i hgt
      exact isqrtFrom_spec n b acc h1 (by omega)

/-- The integer square root is the root rounded down. -/
theorem isqrt_spec {bits n : Nat} (h : n < 2 ^ bits * 2 ^ bits) :
    isqrt bits n * isqrt bits n ≤ n ∧ n < (isqrt bits n + 1) * (isqrt bits n + 1) :=
  isqrtFrom_spec n bits 0 (by omega) (by simpa using h)

/-- A step that answers runs one instruction in the state after the boundary. -/
theorem step_eq_next {s t : State} :
    step s = .next t ↔
      atEnd s = false ∧ takenEvent s = none ∧ flagTF s = false ∧
        ∃ i, fetchInstr (passBoundary s) = .next i ∧ exec i (passBoundary s) = .next t := by
  simp only [step, nextInstr, andThen_eq_next]
  cases ha : atEnd s
  · cases ht : takenEvent s with
    | some k => simp
    | none =>
      cases hf : flagTF s
      · simp [andThen_eq_next]
      · simp
  · simp

/-- A fetch that answers decoded the bytes at the program counter. -/
theorem fetchInstr_eq_next {s : State} {i : Instr} (h : fetchInstr s = .next i) :
    ∃ rest, decode (codeCtx s) (codeBytes s) = .ok i rest := by
  unfold fetchInstr at h
  cases hd : decode (codeCtx s) (codeBytes s) with
  | ok j rest => simp [hd] at h; exact ⟨rest, by rw [h]⟩
  | ud => simp [hd] at h
  | refused w => simp [hd] at h
  | truncated =>
    simp only [hd, truncatedFetch] at h
    split at h
    · simp at h
    · split at h <;> simp at h

/-! ## What a fetch sees of a boundary -/

/-- A boundary changes nothing that a fetched byte depends on. -/
theorem fetchByte_passBoundary (s : State) (k : Nat) (b : Byte) :
    fetchByte (passBoundary s) k = .next b ↔ fetchByte s k = .next b := by
  have h1 : linearPc (passBoundary s) = linearPc s := rfl
  have h2 : ∀ a, inText (passBoundary s) a = inText s a := fun _ => rfl
  have h3 : ∀ k a, pageFaults (passBoundary s) k a = pageFaults s k a := fun _ _ => rfl
  have h4 : ∀ a, physOf (passBoundary s) a = physOf s a := fun _ => rfl
  have h5 : ∀ a k, byteAddr (passBoundary s) a k = byteAddr s a k := fun _ _ => rfl
  have h6 : ∀ p, allocated (passBoundary s) p = allocated s p := fun _ => rfl
  have h7 : (passBoundary s).mem = s.mem := rfl
  have h8 : in64 (passBoundary s) = in64 s := rfl
  have h9 : codeOffset (passBoundary s) = codeOffset s := rfl
  have h10 : (passBoundary s).cs = s.cs := rfl
  simp only [fetchByte, h1, h2, h5, h8, h9, h10, translate_eq, h3, h4, h6, h7]
  split
  · simp
  · split
    · simp
    · split
      · simp
      · cases pageFaults s .execute (byteAddr s (linearPc s) k) <;> simp [andThen_eq_next]

/-- A boundary leaves the bytes at the program counter. -/
theorem codeBytes_passBoundary (s : State) : codeBytes (passBoundary s) = codeBytes s := by
  suffices h : ∀ n k, fetchBytes (passBoundary s) n k = fetchBytes s n k from h _ _
  intro n
  induction n with
  | zero => exact fun _ => rfl
  | succ n ih =>
    intro k
    simp only [fetchBytes, ih]
    have hb := fetchByte_passBoundary s k
    cases h : fetchByte s k with
    | next b => rw [(hb b).mpr h]
    | fault f =>
      cases h' : fetchByte (passBoundary s) k with
      | next b => rw [(hb b).mp h'] at h; cases h
      | fault _ => rfl
      | refused _ => rfl
    | refused f =>
      cases h' : fetchByte (passBoundary s) k with
      | next b => rw [(hb b).mp h'] at h; cases h
      | fault _ => rfl
      | refused _ => rfl

/-! ## The terms of Safety.lean -/

/-- No fault of 41_sqrt.md R126 exactly when every condition of every lane is masked. -/
theorem fault_eq_not_masked (s : State) (fs : List FpFlags) :
    (preFault s fs || postFault s fs) = !fs.all (masked s) := by
  induction fs with
  | nil => rfl
  | cons f r ih =>
    simp only [preFault, postFault, List.any_cons, List.all_cons, Bool.not_and, masked] at *
    rw [← ih]
    cases f.i <;> cases f.d <;> cases f.p <;> cases mxcsrIM s <;> cases mxcsrDM s <;> cases mxcsrPM s <;> simp

theorem legacySseCheck_eq_none_iff (s : State) (lock has : Bool) :
    legacySseCheck s lock has = none ↔ legacyAvailable s lock has = true := by
  rw [legacySseCheck_eq_none, legacyAvailable]
  cases lock <;> simp [and_assoc]

theorem vexCheck_eq_none_iff (s : State) (reserved : Bool) :
    vexCheck s reserved = none ↔ vexAvailable s reserved = true := by
  rw [vexCheck_eq_none, vexAvailable]
  cases reserved <;> simp [and_assoc]

/-- The flags of one lane, bit by bit. -/
theorem flagBits_getLsbD (f : FpFlags) (k : Nat) :
    (flagBits f).getLsbD k = ((k == 0 && f.i) || (k == 1 && f.d) || (k == 5 && f.p)) := by
  by_cases hk : k < 32
  · have : ∀ (a b c : Bool) (k : Fin 32),
        (flagBits ⟨a, b, c⟩).getLsbD k.val = ((k.val == 0 && a) || (k.val == 1 && b) || (k.val == 5 && c)) := by decide
    exact this f.i f.d f.p ⟨k, hk⟩
  · rw [BitVec.getLsbD_of_ge _ _ (by omega)]
    have h0 : k ≠ 0 := by omega
    have h1 : k ≠ 1 := by omega
    have h5 : k ≠ 5 := by omega
    simp [h0, h1, h5]

/-- The flags of all lanes, bit by bit (41_sqrt.md R126). -/
theorem allFlagBits_getLsbD (fs : List FpFlags) (k : Nat) :
    (allFlagBits fs).getLsbD k =
      ((k == 0 && fs.any FpFlags.i) || (k == 1 && fs.any FpFlags.d) || (k == 5 && fs.any FpFlags.p)) := by
  induction fs with
  | nil => simp [allFlagBits]
  | cons f r ih =>
    have : allFlagBits (f :: r) = flagBits f ||| allFlagBits r := rfl
    rw [this, BitVec.getLsbD_or, ih, flagBits_getLsbD]
    simp only [List.any_cons]
    cases (k == 0) <;> cases (k == 1) <;> cases (k == 5) <;> cases f.i <;> cases f.d <;> cases f.p <;> simp

end Sys2Proof.Machine
end

