-- ==== Sys2Proof/Laws/PerInstr.lean ====
section
/-! SUPPORT. Statements made per instruction. -/

namespace Sys2Proof.Laws

/-- The instruction that the decoder answers with has the same words, and is its own canonical form (30_encoding.md R107,
44_stos.md R170). -/
def Canonical.Statement (i : Instr) : Prop := encode i.canonical = encode i ∧ i.canonical.canonical = i.canonical

theorem Canonical.smswRm16 (p : Pfx) (rm : RM) : Canonical.Statement (.smswRm16 p rm) := ⟨rfl, rfl⟩
theorem Canonical.smswR32M16 (p : Pfx) (rm : RM) : Canonical.Statement (.smswR32M16 p rm) := ⟨rfl, rfl⟩
theorem Canonical.smswR64M16 (p : Pfx) (rm : RM) : Canonical.Statement (.smswR64M16 p rm) := ⟨rfl, rfl⟩
theorem Canonical.sqrtpd (p : Pfx) (reg : BitVec 3) (rm : RM) : Canonical.Statement (.sqrtpd p reg rm) := ⟨rfl, rfl⟩
theorem Canonical.vsqrtpdXmm (v : Vex) (reg : BitVec 3) (rm : RM) : Canonical.Statement (.vsqrtpdXmm v reg rm) := ⟨rfl, rfl⟩
theorem Canonical.vsqrtpdYmm (v : Vex) (reg : BitVec 3) (rm : RM) : Canonical.Statement (.vsqrtpdYmm v reg rm) := ⟨rfl, rfl⟩
theorem Canonical.sqrtps (p : Pfx) (reg : BitVec 3) (rm : RM) : Canonical.Statement (.sqrtps p reg rm) := ⟨rfl, rfl⟩
theorem Canonical.vsqrtpsXmm (v : Vex) (reg : BitVec 3) (rm : RM) : Canonical.Statement (.vsqrtpsXmm v reg rm) := ⟨rfl, rfl⟩
theorem Canonical.vsqrtpsYmm (v : Vex) (reg : BitVec 3) (rm : RM) : Canonical.Statement (.vsqrtpsYmm v reg rm) := ⟨rfl, rfl⟩
theorem Canonical.sqrtsd (p : Pfx) (reg : BitVec 3) (rm : RM) : Canonical.Statement (.sqrtsd p reg rm) := ⟨rfl, rfl⟩
theorem Canonical.vsqrtsd (v : Vex) (reg : BitVec 3) (rm : RM) : Canonical.Statement (.vsqrtsd v reg rm) := ⟨rfl, rfl⟩
theorem Canonical.sqrtss (p : Pfx) (reg : BitVec 3) (rm : RM) : Canonical.Statement (.sqrtss p reg rm) := ⟨rfl, rfl⟩
theorem Canonical.vsqrtss (v : Vex) (reg : BitVec 3) (rm : RM) : Canonical.Statement (.vsqrtss v reg rm) := ⟨rfl, rfl⟩
theorem Canonical.stc (p : Pfx) : Canonical.Statement (.stc p) := ⟨rfl, rfl⟩
theorem Canonical.std (p : Pfx) : Canonical.Statement (.std p) := ⟨rfl, rfl⟩
theorem Canonical.sti (p : Pfx) : Canonical.Statement (.sti p) := ⟨rfl, rfl⟩
theorem Canonical.stmxcsr (p : Pfx) (m : MemForm) : Canonical.Statement (.stmxcsr p m) := ⟨rfl, rfl⟩
theorem Canonical.vstmxcsr (v : Vex) (m : MemForm) : Canonical.Statement (.vstmxcsr v m) := ⟨rfl, rfl⟩
theorem Canonical.stosM8 (p : Pfx) : Canonical.Statement (.stosM8 p) := ⟨rfl, rfl⟩
theorem Canonical.stosM16 (p : Pfx) : Canonical.Statement (.stosM16 p) := ⟨rfl, rfl⟩
theorem Canonical.stosM32 (p : Pfx) : Canonical.Statement (.stosM32 p) := ⟨rfl, rfl⟩
theorem Canonical.stosM64 (p : Pfx) : Canonical.Statement (.stosM64 p) := ⟨rfl, rfl⟩
theorem Canonical.stosb (p : Pfx) : Canonical.Statement (.stosb p) := ⟨rfl, rfl⟩
theorem Canonical.stosw (p : Pfx) : Canonical.Statement (.stosw p) := ⟨rfl, rfl⟩
theorem Canonical.stosd (p : Pfx) : Canonical.Statement (.stosd p) := ⟨rfl, rfl⟩
theorem Canonical.stosq (p : Pfx) : Canonical.Statement (.stosq p) := ⟨rfl, rfl⟩
theorem Canonical.str (p : Pfx) (rm : RM) : Canonical.Statement (.str p rm) := ⟨rfl, rfl⟩

end Sys2Proof.Laws
end

