-- ==== Sys2Proof/Tests/Slice0.lean ====
section
/-! SUPPORT. Small tests: expected values are those of spec/95_test_vectors.md or of the worked examples; then, for every
statement with hypotheses, a concrete state and operands that meet them. -/

open Sys2Proof Sys2Proof.Machine

namespace Sys2Proof.Tests

set_option Elab.async false

/-! ## Helpers -/

/-- A flat segment. -/
def flat : Seg := ⟨0x10, 0, 0xFFFFFFFF, true, true, false, true⟩
/-- 32-bit protected mode, flat, SSE and AVX enabled, CR0 = 80050033H, TR = 0040H. -/
def p32 : State :=
  { State.reset with
    cr0 := 0x80050033, cr4 := 0x40600, xcr0 := 7, pc := 0x400000, cs := flat, ds := flat, es := flat, ss := flat
    fs := flat, gs := flat, tr := { flat with sel := 0x40 } }
/-- The same in 64-bit mode. -/
def p64 : State := { p32 with efer := 0x500, cs := { flat with l := true, d := false } }
/-- Real-address mode, CS loaded with selector 0. -/
def real : State := { State.reset with pc := 0x100, cs := Seg.atReset }
/-- Virtual-8086 mode. -/
def v86 : State := { p32 with eflags := 0x20002 }
/-- A register set. -/
def rg (i v : Nat) (s : State) : State := setX s (BitVec.ofNat 4 i) (BitVec.ofNat 64 v)
/-- A vector register set. -/
def yr (i v : Nat) (s : State) : State := setYmm s (BitVec.ofNat 4 i) (BitVec.ofNat 256 v)
/-- Bytes placed in memory. -/
def put (a : Nat) (bs : List Byte) (s : State) : State :=
  setMem s (memWriteAll s.mem (((List.range bs.length).map (· + a)).zip bs))
/-- Bytes as the program at `CS:pc`. -/
def prog (bs : List Byte) (s : State) : State :=
  { put (linearPc s).toNat bs s with text := ⟨linearPc s, bs.length⟩ }
/-- No prefix. -/
def p0 : Pfx := ⟨false, none, false, false, none⟩
/-- Prefix 66. -/
def p66 : Pfx := ⟨false, none, true, false, none⟩
/-- REX.W. -/
def pW : Pfx := ⟨false, none, false, false, some ⟨true, false, false, false⟩⟩
/-- LOCK. -/
def pL : Pfx := ⟨true, none, false, false, none⟩
/-- A two-byte VEX prefix with the given register in vvvv and L. -/
def vx (vvvv : BitVec 4) (l : Bool) : Vex := ⟨none, false, false, false, false, false, false, vvvv, l⟩
/-- The memory operand [EAX] or [RAX]. -/
def atA : MemForm := .memBase 0 .none
/-- The answer is a next state of which `f` holds. -/
def gives (o : Host.Outcome State Fault Refusal) (f : State → Bool) : Bool :=
  match o with
  | .next t => f t
  | _ => false
/-- The exception and error code of an answer. -/
def raised (o : Host.Outcome State Fault Refusal) : Option (Exc × Option (BitVec 32)) :=
  match o with
  | .fault (.exception e c _) => some (e, c)
  | _ => none
/-- General register, vector register, memory byte as numbers. -/
def gpr (i : Nat) (s : State) : Nat := (readX s (BitVec.ofNat 4 i)).toNat
def ymm (i : Nat) (s : State) : Nat := (readYmm s (BitVec.ofNat 4 i)).toNat
def mem (a n : Nat) (s : State) : List Nat := (List.range n).map fun k => (memRead s.mem (a + k)).toNat

theorem exists_of_gives {o : Host.Outcome State Fault Refusal} {f : State → Bool} (h : gives o f = true) :
    ∃ t, o = .next t ∧ f t = true := by
  cases o with
  | next t => exact ⟨t, rfl, h⟩
  | fault r => cases h
  | refused r => cases h

theorem exists_of_raised {o : Host.Outcome State Fault Refusal} {e : Exc} {c : Option (BitVec 32)}
    (h : raised o = some (e, c)) : ∃ left, o = .fault (.exception e c left) := by
  cases o with
  | next t => cases h
  | fault r =>
    cases r with
    | exception e' c' left => cases h; exact ⟨left, rfl⟩
    | interrupted k left => cases h
    | unallocated a => cases h
  | refused r => cases h

/-! ## WellFormed refuses -/

/-- A REX byte outside 64-bit mode (30_encoding.md R81). -/
theorem test_wf_rex : Instr.wellFormed ⟨false, true⟩ (.stosM64 pW) = false := by decide
/-- Operand size 32 is not the row of SMSW r/m16 (R94). -/
theorem test_wf_size : Instr.wellFormed ⟨false, true⟩ (.smswRm16 p0 (.reg 0)) = false := by decide
/-- SQRTPD without its 66 (R79). -/
theorem test_wf_mandatory : Instr.wellFormed ⟨true, false⟩ (.sqrtpd p0 0 (.reg 1)) = false := by decide
/-- SQRTPS with a 66 (R79). -/
theorem test_wf_excluded : Instr.wellFormed ⟨true, false⟩ (.sqrtps p66 0 (.reg 1)) = false := by decide
/-- LOCK beside the F2 of SQRTSD: one group (R74). -/
theorem test_wf_group : Instr.wellFormed ⟨true, false⟩ (.sqrtsd pL 0 (.reg 1)) = false := by decide
/-- VEX.L = 1 on a 128-bit row (R93). -/
theorem test_wf_vexL : Instr.wellFormed ⟨true, false⟩ (.vsqrtpdXmm (vx 0 true) 0 (.reg 1)) = false := by decide
/-- A reserved vvvv, and VEX.L = 1 in VSTMXCSR (R101). -/
theorem test_wf_reserved : Instr.wellFormed ⟨true, false⟩ (.vsqrtpsYmm (vx 7 true) 0 (.reg 1)) = false ∧
    Instr.wellFormed ⟨true, false⟩ (.vstmxcsr (vx 1 false) atA) = false ∧
    Instr.wellFormed ⟨true, false⟩ (.vstmxcsr (vx 0 true) atA) = false := by decide
/-- VEX.W in the two-byte form (R90). -/
theorem test_wf_vex2 :
    Instr.wellFormed ⟨true, false⟩ (.vsqrtsd { vx 2 false with w := true } 0 (.reg 1)) = false := by decide
/-- VEX.R outside 64-bit mode (R91). -/
theorem test_wf_vexR :
    Instr.wellFormed ⟨false, true⟩ (.vsqrtsd { vx 2 false with r := true } 0 (.reg 1)) = false := by decide
/-- 16-bit addressing in 64-bit mode (R89). -/
theorem test_wf_mem16 : Instr.wellFormed ⟨true, false⟩ (.str p0 (.mem (.mem16 0 .none))) = false := by decide
/-- r/m 110 with mod 00 and address size 16 is the displacement form (R84). -/
theorem test_wf_bp16 : Instr.wellFormed ⟨false, false⟩ (.str p0 (.mem (.mem16 6 .none))) = false := by decide
/-- r/m 100 with address size 32 is the SIB form (R85). -/
theorem test_wf_sib : Instr.wellFormed ⟨false, true⟩ (.str p0 (.mem (.memBase 4 .none))) = false := by decide
/-- r/m 101 with mod 00 is the displacement form (R85). -/
theorem test_wf_disp : Instr.wellFormed ⟨false, true⟩ (.str p0 (.mem (.memBase 5 .none))) = false := by decide
/-- base 101 with mod 00 is the form without a base (R86). -/
theorem test_wf_sibBase : Instr.wellFormed ⟨true, false⟩ (.str p0 (.mem (.memSib 0 4 5 .none))) = false := by decide

/-! ## Words written out from the encoding tables -/

theorem test_dec_smsw16 : decode ⟨true, false⟩ [0x66, 0x0F, 0x01, 0x20] = .ok (.smswRm16 p66 (.mem atA)) [] := by decide
theorem test_dec_smsw32 : decode ⟨false, true⟩ [0x0F, 0x01, 0xA4, 0x88, 0x78, 0x56, 0x34, 0x12] =
    .ok (.smswR32M16 p0 (.mem (.memSib 2 1 0 (.full 0x12345678)))) [] := by decide
theorem test_dec_smsw64 : decode ⟨true, false⟩ [0x48, 0x0F, 0x01, 0x25, 0x10, 0, 0, 0] =
    .ok (.smswR64M16 pW (.mem (.memDisp 0x10))) [] := by decide
theorem test_dec_smsw_bp : decode ⟨false, false⟩ [0x0F, 0x01, 0x63, 0x10] =
    .ok (.smswRm16 p0 (.mem (.mem16 3 (.d8 0x10)))) [] := by decide
theorem test_dec_sqrtpd : decode ⟨true, false⟩ [0x66, 0x44, 0x0F, 0x51, 0xC1] =
    .ok (.sqrtpd { p66 with rex := some ⟨false, true, false, false⟩ } 0 (.reg 1)) [] := by decide
theorem test_dec_vsqrtpdXmm : decode ⟨true, false⟩ [0xC4, 0xC1, 0x79, 0x51, 0xC0] =
    .ok (.vsqrtpdXmm ⟨none, false, true, false, false, true, false, 0, false⟩ 0 (.reg 0)) [] := by decide
theorem test_dec_vsqrtpdYmm : decode ⟨true, false⟩ [0xC5, 0x7D, 0x51, 0xC1] =
    .ok (.vsqrtpdYmm ⟨none, false, false, true, false, false, false, 0, true⟩ 0 (.reg 1)) [] := by decide
theorem test_dec_sqrtps : decode ⟨false, true⟩ [0x0F, 0x51, 0xC1] = .ok (.sqrtps p0 0 (.reg 1)) [] := by decide
theorem test_dec_vsqrtpsXmm : decode ⟨false, true⟩ [0xC5, 0xF8, 0x51, 0xC1] =
    .ok (.vsqrtpsXmm (vx 0 false) 0 (.reg 1)) [] := by decide
theorem test_dec_vsqrtpsYmm : decode ⟨false, true⟩ [0xC5, 0xFC, 0x51, 0xC1] =
    .ok (.vsqrtpsYmm (vx 0 true) 0 (.reg 1)) [] := by decide
theorem test_dec_sqrtsd : decode ⟨false, true⟩ [0xF2, 0x0F, 0x51, 0xC1] = .ok (.sqrtsd p0 0 (.reg 1)) [] := by decide
theorem test_dec_vsqrtsd : decode ⟨true, false⟩ [0xC5, 0xB3, 0x51, 0xC1] =
    .ok (.vsqrtsd (vx 9 false) 0 (.reg 1)) [] := by decide
theorem test_dec_sqrtss : decode ⟨false, true⟩ [0xF3, 0x0F, 0x51, 0xC1] = .ok (.sqrtss p0 0 (.reg 1)) [] := by decide
theorem test_dec_vsqrtss : decode ⟨false, true⟩ [0xC5, 0xEA, 0x51, 0xC1] =
    .ok (.vsqrtss (vx 2 false) 0 (.reg 1)) [] := by decide
theorem test_dec_stc : decode ⟨false, false⟩ [0xF9] = .ok (.stc p0) [] := by decide
theorem test_dec_std : decode ⟨true, false⟩ [0xFD] = .ok (.std p0) [] := by decide
theorem test_dec_sti : decode ⟨false, true⟩ [0xFB, 0xF9] = .ok (.sti p0) [0xF9] := by decide
theorem test_dec_stmxcsr : decode ⟨false, true⟩ [0x0F, 0xAE, 0x5C, 0x24, 0xFC] =
    .ok (.stmxcsr p0 (.memSib 0 4 4 (.d8 0xFC))) [] := by decide
theorem test_dec_vstmxcsr : decode ⟨true, false⟩ [0xC4, 0xE1, 0xF8, 0xAE, 0x18] =
    .ok (.vstmxcsr ⟨none, false, true, false, false, false, true, 0, false⟩ atA) [] := by decide
theorem test_dec_stosM8 : decode ⟨false, true⟩ [0x64, 0xAA] = .ok (.stosM8 { p0 with seg := some .fs }) [] := by decide
theorem test_dec_stosM16 : decode ⟨false, true⟩ [0x66, 0xAB] = .ok (.stosM16 p66) [] := by decide
theorem test_dec_stosM32 : decode ⟨false, false⟩ [0x66, 0xAB] = .ok (.stosM32 p66) [] := by decide
theorem test_dec_stosM64 : decode ⟨true, false⟩ [0x66, 0x48, 0xAB] = .ok (.stosM64 { pW with opsz := true }) [] := by decide
theorem test_dec_str : decode ⟨true, false⟩ [0x41, 0x0F, 0x00, 0xCA] =
    .ok (.str { p0 with rex := some ⟨false, false, false, true⟩ } (.reg 2)) [] := by decide
/-- The no-operand mnemonics have the words of the explicit forms (R107). -/
theorem test_dec_short : [encode (.stosb p0), encode (.stosw p66), encode (.stosd p0), encode (.stosq pW)] =
    [[0xAA], [0x66, 0xAB], [0xAB], [0x48, 0xAB]] := by decide
/-- Refusals by name (R74, R81, R103, R104, R172). -/
theorem test_dec_refused :
    decode ⟨true, false⟩ [0x66, 0x66, 0x0F, 0x01, 0xE0] = .refused .repeatedPrefix ∧
    decode ⟨true, false⟩ [0x48, 0x66, 0x0F, 0x01, 0xE0] = .refused .rexNotLast ∧
    decode ⟨false, true⟩ [0xF3, 0xAA] = .refused .repeatedString ∧
    decode ⟨false, true⟩ [0x66, 0x0F, 0xAE, 0x18] = .refused .prefixNotInScope ∧
    decode ⟨false, true⟩ [0x0F, 0xAE, 0xD8] = .refused .noRegisterForm ∧
    decode ⟨false, true⟩ [0x48] = .refused .outOfScope := by decide
/-- Steps 3 and 4 of R100 answer before SIB and displacement are read: no byte is missing here. -/
theorem test_dec_early :
    decode ⟨false, true⟩ [0x0F, 0x00, 0x85] = .refused .outOfScope ∧
    decode ⟨false, true⟩ [0x66, 0xF2, 0x0F, 0x51] = .refused .prefixNotInScope ∧
    decode ⟨true, false⟩ [0xC5, 0xF1, 0x51] = .ud ∧
    decode ⟨false, true⟩ [0xC5, 0xFC, 0xAE, 0x9C] = .ud ∧
    decode ⟨true, false⟩ [0xC5, 0xFD, 0xAE, 0x9C] = .refused .prefixNotInScope ∧
    decode ⟨true, false⟩ [0x0F, 0x51, 0x84] = .truncated := by decide
/-- The decoder's mode after reset. -/
theorem test_reset_ctx : codeCtx State.reset = CodeCtx.atReset := by decide

/-! ## One step or one meaning on a small state -/

theorem test_smsw16 : gives (step (prog [0x66, 0x0F, 0x01, 0xE0] (rg 0 0xFFFFFFFFFFFFFFFF p64)))
    (fun t => gpr 0 t == 0xFFFFFFFFFFFF0033 && t.pc == 0x400004) = true := by decide +kernel
theorem test_smsw16_mem : gives (exec (.smswRm16 p66 (.mem atA)) (rg 0 0x3000 p64))
    (fun t => mem 0x3000 2 t == [0x33, 0]) = true := by decide +kernel
theorem test_smsw32 : gives (exec (.smswR32M16 p0 (.reg 0)) (rg 0 0xFFFFFFFFFFFFFFFF p64))
    (fun t => gpr 0 t == 0x80050033) = true := by decide +kernel
/-- Outside 64-bit mode bits 31:16 are free, so nothing of the register is evaluated here (SmswToRegister32 says it). -/
theorem test_smsw32_legacy : gives (exec (.smswR32M16 p0 (.reg 0)) (rg 0 0xFFFFFFFFFFFFFFFF p32))
    (fun t => gpr 1 t == 0 && t.pc == 0x400003 && t.freeIdx == 1) = true := by decide +kernel
theorem test_smsw64 : gives (exec (.smswR64M16 pW (.reg 0)) (rg 0 0xFFFFFFFFFFFFFFFF p64))
    (fun t => gpr 0 t == 0x80050033) = true := by decide +kernel
theorem test_smsw64_mem :
    gives (exec (.smswR64M16 pW (.mem atA)) (put 0x3000 [0xAA, 0xAA, 0xAA, 0xAA] (rg 0 0x3000 p64)))
      (fun t => mem 0x3000 4 t == [0x33, 0, 0xAA, 0xAA]) = true := by decide +kernel

/-- 9.0 over 4.0. -/
def nineFour : Nat := 0x40220000000000004010000000000000
/-- All ones. -/
def ones : Nat := 2 ^ 256 - 1

theorem test_sqrtpd : gives (exec (.sqrtpd p66 0 (.reg 1)) (yr 1 nineFour (yr 0 ones p64)))
    (fun t => ymm 0 t == (2 ^ 128 - 1) * 2 ^ 128 + 0x40080000000000004000000000000000 && t.mxcsr == 0x1F80) = true := by
  decide +kernel
/-- The root of 2 is inexact: PE. -/
theorem test_sqrtpd_inexact : gives (exec (.sqrtpd p66 0 (.reg 1)) (yr 1 0x40000000000000004010000000000000 p64))
    (fun t => ymm 0 t == 0x3FF6A09E667F3BCD4000000000000000 && t.mxcsr == 0x1FA0) = true := by decide +kernel
theorem test_vsqrtpdXmm : gives (exec (.vsqrtpdXmm (vx 0 false) 0 (.reg 1)) (yr 1 nineFour (yr 0 ones p64)))
    (fun t => ymm 0 t == 0x40080000000000004000000000000000) = true := by decide +kernel
theorem test_vsqrtpdYmm : gives (exec (.vsqrtpdYmm (vx 0 true) 0 (.reg 1))
      (yr 1 0x4030000000000000402200000000000040100000000000003FF0000000000000 p64))
    (fun t => ymm 0 t == 0x4010000000000000400800000000000040000000000000003FF0000000000000) = true := by decide +kernel
theorem test_sqrtps : gives (exec (.sqrtps p0 0 (.reg 1)) (yr 1 0x4180000041100000408000003F800000 p32))
    (fun t => ymm 0 t == 0x4080000040400000400000003F800000) = true := by decide +kernel
theorem test_vsqrtpsXmm : gives (exec (.vsqrtpsXmm (vx 0 false) 0 (.reg 1))
      (yr 1 0x4180000041100000408000003F800000 (yr 0 ones p32)))
    (fun t => ymm 0 t == 0x4080000040400000400000003F800000) = true := by decide +kernel
theorem test_vsqrtpsYmm : gives (exec (.vsqrtpsYmm (vx 0 true) 0 (.reg 1))
      (yr 1 0x4080000040800000408000004080000040800000408000004080000040800000 p32))
    (fun t => ymm 0 t == 0x4000000040000000400000004000000040000000400000004000000040000000) = true := by decide +kernel
theorem test_sqrtsd : gives (exec (.sqrtsd p0 0 (.reg 1))
      (yr 1 0x4010000000000000 (yr 0 0xAAAAAAAAAAAAAAAA0000000000000000 p32)))
    (fun t => ymm 0 t == 0xAAAAAAAAAAAAAAAA4000000000000000) = true := by decide +kernel
theorem test_vsqrtsd : gives (exec (.vsqrtsd (vx 2 true) 0 (.reg 1))
      (yr 2 0xBBBBBBBBBBBBBBBBCCCCCCCCCCCCCCCC (yr 1 0x4022000000000000 (yr 0 ones p32))))
    (fun t => ymm 0 t == 0xBBBBBBBBBBBBBBBB4008000000000000) = true := by decide +kernel
theorem test_sqrtss : gives (exec (.sqrtss p0 0 (.reg 1))
      (yr 1 0x41100000 (yr 0 0x11111111222222223333333300000000 p32)))
    (fun t => ymm 0 t == 0x11111111222222223333333340400000) = true := by decide +kernel
theorem test_sqrtss_mem : gives (exec (.sqrtss p0 0 (.mem atA)) (put 0x2002 [0, 0, 0x10, 0x41] (rg 0 0x2002 p32)))
    (fun t => ymm 0 t == 0x40400000) = true := by decide +kernel
theorem test_vsqrtss : gives (exec (.vsqrtss (vx 2 false) 0 (.reg 1))
      (yr 2 0x11111111222222223333333344444444 (yr 1 0x40800000 (yr 0 ones p32))))
    (fun t => ymm 0 t == 0x11111111222222223333333340000000) = true := by decide +kernel
theorem test_stc : gives (exec (.stc p0) { p32 with eflags := 0x202 }) (fun t => t.eflags == 0x203) = true := by
  decide +kernel
theorem test_std : gives (exec (.std p0) { p32 with eflags := 0x202 }) (fun t => t.eflags == 0x602) = true := by
  decide +kernel
theorem test_sti : gives (exec (.sti p0) real) (fun t => t.eflags == 0x202 && t.stiShadow) = true := by decide +kernel
/-- CPL 3, IOPL 0, PVI: VIF, no delay. -/
theorem test_sti_vif : gives (exec (.sti p0) { p32 with cpl := 3, cr4 := 2 })
    (fun t => t.eflags == 0x80002 && !t.stiShadow) = true := by decide +kernel
theorem test_stmxcsr : gives (exec (.stmxcsr p0 atA) (rg 0 0x2000 p32))
    (fun t => mem 0x2000 5 t == [0x80, 0x1F, 0, 0, 0]) = true := by decide +kernel
theorem test_vstmxcsr : gives (exec (.vstmxcsr (vx 0 false) atA) (rg 0 0x2000 p32))
    (fun t => mem 0x2000 4 t == [0x80, 0x1F, 0, 0]) = true := by decide +kernel

/-- EAX = 11223344H and EDI as given. -/
def st32 (d : Nat) : State := rg 0 0x11223344 (rg 7 d p32)
/-- RAX = 8877665544332211H and RDI as given. -/
def st64 (d : Nat) : State := rg 0 0x8877665544332211 (rg 7 d p64)

theorem test_stosM8 : gives (exec (.stosM8 p0) (st32 0x1000))
    (fun t => mem 0x1000 2 t == [0x44, 0] && gpr 7 t == 0x1001) = true := by decide +kernel
/-- The index wraps at 16 bits; in real-address mode the base is ES times 16, whatever the hidden base holds (R35, R57). -/
theorem test_stosM8_wrap :
    gives (exec (.stosM8 p0) (rg 0 0x44 (rg 7 0xABCDFFFF { real with es := { Seg.atReset with sel := 0x100, base := 5 } })))
      (fun t => mem 0x10FFF 1 t == [0x44] && gpr 7 t == 0xABCD0000) = true := by decide +kernel
theorem test_stosM16 : gives (exec (.stosM16 p66) { st32 0x1000 with eflags := 0x402 })
    (fun t => mem 0x1000 3 t == [0x44, 0x33, 0] && gpr 7 t == 0xFFE) = true := by decide +kernel
theorem test_stosM32 : gives (exec (.stosM32 p0) (st64 0x2000))
    (fun t => mem 0x2000 5 t == [0x11, 0x22, 0x33, 0x44, 0] && gpr 7 t == 0x2004) = true := by decide +kernel
theorem test_stosM64 : gives (exec (.stosM64 pW) (st64 0x2000))
    (fun t => mem 0x2000 8 t == [0x11, 0x22, 0x33, 0x44, 0x55, 0x66, 0x77, 0x88] && gpr 7 t == 0x2008) = true := by
  decide +kernel
/-- With 67 the index is EDI, and its update clears the upper half of RDI. -/
theorem test_stosb : gives (exec (.stosb { p0 with adsz := true }) (st64 0xFFFFFFFF00002000))
    (fun t => mem 0x2000 1 t == [0x11] && gpr 7 t == 0x2001) = true := by decide +kernel
theorem test_stosw : gives (exec (.stosw p66) (st32 0x1000))
    (fun t => mem 0x1000 2 t == [0x44, 0x33] && gpr 7 t == 0x1002) = true := by decide +kernel
theorem test_stosd : gives (exec (.stosd p0) (st32 0x1000))
    (fun t => mem 0x1000 4 t == [0x44, 0x33, 0x22, 0x11] && gpr 7 t == 0x1004) = true := by decide +kernel
theorem test_stosq : gives (exec (.stosq pW) { st64 0x2008 with eflags := 0x402 })
    (fun t => mem 0x2008 2 t == [0x11, 0x22] && gpr 7 t == 0x2000) = true := by decide +kernel
theorem test_str : gives (exec (.str p0 (.reg 0)) (rg 0 0xFFFFFFFF p32)) (fun t => gpr 0 t == 0x40) = true := by
  decide +kernel
theorem test_str16 : gives (exec (.str p66 (.reg 0)) (rg 0 0xFFFFFFFF p32)) (fun t => gpr 0 t == 0xFFFF0040) = true := by
  decide +kernel

/-- An unmasked invalid lane: #XM; with CR4.OSXMMEXCPT = 0: #UD. -/
theorem test_numeric_fault :
    raised (exec (.sqrtpd p66 0 (.reg 1)) { yr 1 0xBFF00000000000004010000000000000 p64 with mxcsr := 0x1F00 }) =
      some (.xm, none) ∧
    raised (exec (.sqrtpd p66 0 (.reg 1))
      { yr 1 0xBFF00000000000004010000000000000 p64 with mxcsr := 0x1F00, cr4 := 0x200 }) = some (.ud, none) := by
  decide +kernel
/-- SMSW to an odd address at CPL 3 under AM and AC: #AC(0). -/
theorem test_alignment : raised (exec (.smswR32M16 p0 (.mem atA)) { rg 0 0x2001 p32 with cpl := 3, eflags := 0x40002 }) =
    some (.ac, some 0) := by decide +kernel
/-- STI, STC with an external interrupt pending all along (P4 of the test vectors): taken after the STC. -/
theorem test_delay :
    gives (step (prog [0xFB, 0xF9] { real with inputs := List.replicate 3 ⟨true, false, false⟩ })) (fun t =>
      gives (step t) (fun u => takenEvent u == some .external) && takenEvent t == none) = true := by decide +kernel
/-- A table word is fetched and run first after reset. -/
theorem test_table_word : gives (step (State.reset.withFetchWord 8 0xF9)) (fun t => flagCF t && t.pc == 0xFFF1) = true := by
  decide +kernel

/-! ## Hypotheses that can be met: encoding -/

/-- DecodeReadsEncodeBack, InstructionLengthBound: every constructor has an encodable term. -/
theorem met_wellFormed :
    ([(⟨true, false⟩, .smswRm16 p66 (.reg 7)), (⟨true, false⟩, .smswR32M16 p0 (.mem atA)),
      (⟨true, false⟩, .smswR64M16 pW (.mem (.memDisp 0xFFFFFFFF))), (⟨true, false⟩, .sqrtpd p66 7 (.reg 7)),
      (⟨true, false⟩, .vsqrtpdXmm (vx 0 false) 0 (.reg 1)), (⟨true, false⟩, .vsqrtpdYmm (vx 0 true) 0 (.reg 1)),
      (⟨false, false⟩, .sqrtps p0 0 (.mem (.mem16 6 (.d8 0)))), (⟨false, true⟩, .vsqrtpsXmm (vx 0 false) 0 (.reg 1)),
      (⟨false, true⟩, .vsqrtpsYmm (vx 0 true) 0 (.reg 1)), (⟨false, false⟩, .sqrtsd p0 0 (.mem (.mem16Abs 0xFFFF))),
      (⟨true, false⟩, .vsqrtsd (vx 2 true) 0 (.reg 1)), (⟨false, true⟩, .sqrtss p0 0 (.mem (.memSib 3 4 5 (.full 1)))),
      (⟨true, false⟩, .vsqrtss (vx 2 false) 0 (.mem (.memSibNoBase 3 7 0x80000000))), (⟨false, false⟩, .stc pL),
      (⟨false, false⟩, .std p0), (⟨false, false⟩, .sti p0), (⟨false, true⟩, .stmxcsr p0 atA),
      (⟨false, true⟩, .vstmxcsr (vx 0 false) atA), (⟨false, true⟩, .stosM8 p0), (⟨false, true⟩, .stosM16 p66),
      (⟨false, true⟩, .stosM32 p0), (⟨true, false⟩, .stosM64 pW), (⟨false, true⟩, .stosb p0),
      (⟨false, true⟩, .stosw p66), (⟨false, true⟩, .stosd p0), (⟨true, false⟩, .stosq pW),
      (⟨true, false⟩, .str p0 (.reg 0))] : List (CodeCtx × Instr)).all (fun a => Instr.wellFormed a.1 a.2) = true := by
  decide
/-- InstructionLengthBound: both bounds are reached. -/
theorem met_length :
    Instr.wellFormed ⟨true, false⟩
      (.smswR64M16 ⟨true, some .fs, true, true, some ⟨true, true, true, true⟩⟩ (.mem (.memSib 3 7 7 (.full 1)))) = true ∧
    instrLen (.smswR64M16 ⟨true, some .fs, true, true, some ⟨true, true, true, true⟩⟩
      (.mem (.memSib 3 7 7 (.full 1)))) = 13 ∧
    instrLen (.smswR64M16 ⟨false, some .fs, true, true, some ⟨true, true, true, true⟩⟩
      (.mem (.memSib 3 7 7 (.full 1)))) = 12 := by decide
/-- DecodedIsEncodable. -/
theorem met_decoded : decode ⟨true, false⟩ [0x66, 0x67, 0x0F, 0x51, 0x00, 0xF9] =
    .ok (.sqrtpd { p66 with adsz := true } 0 (.mem atA)) [0xF9] := by decide
/-- PrefixOrderIrrelevant. -/
theorem met_prefixOrder : [0x66#8, 0x67, 0xF2].Perm [0xF2, 0x66, 0x67] ∧
    ∀ b ∈ [0x66#8, 0x67, 0xF2], isLegacyPrefix b = true := by decide
/-- VexAfterForbiddenPrefix: 66 and LOCK, in and outside 64-bit mode, and REX. -/
theorem met_vexPrefix : scanPrefixes Scan.empty ([0x64, 0x66] ++ [0xC5]) = .done ⟨false, none, some .fs, true, false⟩ [0xC5] ∧
    (∃ p ∈ [0x64#8, 0x66], p = 0xF0 ∨ p = 0xF2 ∨ p = 0xF3 ∨ p = 0x66) ∧
    scanPrefixes Scan.empty ([0xF0] ++ [0xC4]) = .done ⟨true, none, none, false, false⟩ [0xC4] ∧
    (0xE1 : Byte).extractLsb' 6 2 = 3 ∧
    decode ⟨true, false⟩ [0x64, 0x66, 0xC5] = .ud ∧ decode ⟨false, true⟩ [0xF0, 0xC4, 0xE1, 0x78, 0x51, 0xC1] = .ud ∧
    scanPrefixes Scan.empty ([] ++ [0xC5]) = .done Scan.empty [0xC5] ∧
    decode ⟨true, false⟩ [0x48, 0xC5, 0xF8, 0x51, 0xC1] = .ud := by decide

/-! ## Hypotheses that can be met: memory -/

/-- StoreThenLoadPart: the last two of four bytes. -/
theorem met_storeThenLoad : ∃ t, segWrite p32 .ds 0x2000 [1, 2, 3, 4] .plain = .next t ∧
    (Memory.wf p32.mem && decide (operandPhys p32 .ds 0x2000 4).Nodup && accessOk t .ds (0x2000 + BitVec.ofNat 64 2) 2 .read .plain) =
      true := exists_of_gives (by decide +kernel)
/-- OnlyStoredBytesChange: a form that stores and one that stores nothing; the modes of the second clause, the reset CS
among them; a base BP and an ignored override for the last clause. -/
theorem met_storedBytes : Memory.wf (st32 0x1000).mem = true ∧ (∃ t, exec (.stosM32 p0) (st32 0x1000) = .next t ∧ true = true) ∧
    (∃ t, exec (.str p0 (.reg 0)) (st32 0x1000) = .next t ∧ true = true) ∧
    (mode p64 = .mode64 ∧ (operandAddrs p64 .ds 0xFFFF 2).length = 2 ∧ extendedReg p64 false 5 = 5 ∧
      extendedReg p64 true 5 = 13 ∧ operandSeg p64 ⟨some .cs, false, false, false⟩ (.memBase 5 (.d8 0)) = .ss) ∧
    (cr0PG State.reset = false ∧ mode State.reset = .real ∧ operandPhys State.reset .cs 0xFFF0 1 = [0xFFFFFFF0]) ∧
    (cr0PG { v86 with cr0 := 1 } = false ∧ operandPhys { v86 with cr0 := 1 } .ds 0xFFFF 2 = [0x100FF, 0x10100]) :=
  ⟨by decide +kernel, exists_of_gives (f := fun _ => true) (by decide +kernel),
    exists_of_gives (f := fun _ => true) (by decide +kernel), by decide +kernel, by decide +kernel, by decide +kernel⟩

/-! ## Hypotheses that can be met: flags -/

/-- StcSetsCarryOnly, StdSetsDirectionOnly, SmswToRegister16 and 64, SmswToRegister32 in both modes. -/
theorem met_unlocked : p0.lock = false ∧ in64 p64 = true ∧ in64 p32 = false ∧ in64 real = false := by decide +kernel
/-- StiSetsInterruptFlag, each clause; CPL = IOPL at 3. -/
theorem met_stiIf : cr0PE real = false ∧
    (cr0PE { p32 with cpl := 3, eflags := 0x3002 } = true ∧ flagVM { p32 with cpl := 3, eflags := 0x3002 } = false ∧
      currentCpl { p32 with cpl := 3, eflags := 0x3002 } ≤ flagIOPL { p32 with cpl := 3, eflags := 0x3002 }) ∧
    (cr0PE { p32 with eflags := 0x23002 } = true ∧ flagVM { p32 with eflags := 0x23002 } = true ∧
      flagIOPL { p32 with eflags := 0x23002 } = 3) := by decide +kernel
/-- StiSetsVirtualInterruptFlag, both clauses; IOPL at 2. -/
theorem met_stiVif :
    (cr0PE { p32 with cpl := 3, cr4 := 2, eflags := 0x2002 } = true ∧
      flagIOPL { p32 with cpl := 3, cr4 := 2, eflags := 0x2002 } ≠ 3 ∧
      flagVIP { p32 with cpl := 3, cr4 := 2, eflags := 0x2002 } = false ∧
      flagVM { p32 with cpl := 3, cr4 := 2, eflags := 0x2002 } = false ∧
      currentCpl { p32 with cpl := 3, cr4 := 2, eflags := 0x2002 } = 3 ∧
      cr4PVI { p32 with cpl := 3, cr4 := 2, eflags := 0x2002 } = true) ∧
    (cr0PE { v86 with cr4 := 1 } = true ∧ flagIOPL { v86 with cr4 := 1 } ≠ 3 ∧ flagVIP { v86 with cr4 := 1 } = false ∧
      flagVM { v86 with cr4 := 1 } = true ∧ cr4VME { v86 with cr4 := 1 } = true) := by decide +kernel
/-- StiWithoutPrivilegeFaults, each clause: CPL 1, no PVI, VIP, virtual-8086 mode without VME. -/
theorem met_stiFault :
    (flagIOPL { p32 with cpl := 1 } < currentCpl { p32 with cpl := 1 } ∧ currentCpl { p32 with cpl := 1 } ≠ 3 ∧
      cr0PE p32 = true ∧ flagVM p32 = false) ∧
    (flagIOPL { p32 with cpl := 3 } < currentCpl { p32 with cpl := 3 } ∧ cr4PVI { p32 with cpl := 3 } = false) ∧
    (flagIOPL { p32 with cpl := 3, eflags := 0x100002 } < currentCpl { p32 with cpl := 3, eflags := 0x100002 } ∧
      flagVIP { p32 with cpl := 3, eflags := 0x100002 } = true) ∧
    (cr0PE v86 = true ∧ flagVM v86 = true ∧ flagIOPL v86 ≠ 3 ∧ cr4VME v86 = false) := by decide +kernel
/-- StiDelaysOneInstruction, OnlyStiLeavesShadow: the STI and the instruction after it. -/
theorem met_delay : flagIF (prog [0xF9] real) = false ∧
    ∃ t, exec (.sti p0) { prog [0, 0xF9] real with inputs := List.replicate 3 ⟨true, false, false⟩ } = .next t ∧
      (flagIF t && t.stiShadow && gives (step t) (fun u => (pendingNow u).ext)) = true :=
  ⟨by decide +kernel, exists_of_gives (f := fun t => flagIF t && t.stiShadow &&
    gives (step t) (fun u => (pendingNow u).ext)) (by decide +kernel)⟩

/-! ## Hypotheses that can be met: stores -/

/-- SmswToMemory: the last two bytes of a 32-bit segment, and in 64-bit mode the last two canonical ones below. -/
theorem met_smswMem : Memory.wf (rg 0 0xFFFFFFFE p32).mem = true ∧
    accessOk (rg 0 0xFFFFFFFE p32) (operandSeg (rg 0 0xFFFFFFFE p32) (addrBitsOfPfx p66) atA)
      (effAddr (rg 0 0xFFFFFFFE p32) (addrBitsOfPfx p66) (instrLen (.smswRm16 p66 (.mem atA))) atA) 2 .write .plain = true ∧
    accessOk (rg 0 0x7FFFFFFFFFFE p64) (operandSeg (rg 0 0x7FFFFFFFFFFE p64) (addrBitsOfPfx pW) atA)
      (effAddr (rg 0 0x7FFFFFFFFFFE p64) (addrBitsOfPfx pW) (instrLen (.smswR64M16 pW (.mem atA))) atA) 2 .write .plain =
        true := by decide +kernel
/-- StrToRegister, each operand size; StrToMemory; StrOutsideProtectedMode, both modes. -/
theorem met_str : realOrV86 p32 = false ∧ operandSize (codeCtx p32) false false = .o32 ∧
    operandSize (codeCtx p32) true false = .o16 ∧ realOrV86 p64 = false ∧
    operandSize (codeCtx p64) false true = .o64 ∧ mode real = .real ∧ mode v86 = .v86 ∧
    accessOk (rg 0 0x2000 p32) (operandSeg (rg 0 0x2000 p32) (addrBitsOfPfx p0) atA)
      (effAddr (rg 0 0x2000 p32) (addrBitsOfPfx p0) (instrLen (.str p0 (.mem atA))) atA) 2 .write .strStore = true := by
  decide +kernel
/-- StmxcsrStores. -/
theorem met_stmxcsr : Memory.wf (rg 0 0x2000 p32).mem = true ∧ cr0EM (rg 0 0x2000 p32) = false ∧
    cr4OSFXSR (rg 0 0x2000 p32) = true ∧ (rg 0 0x2000 p32).features.hasSse = true ∧ cr0TS (rg 0 0x2000 p32) = false ∧
    accessOk (rg 0 0x2000 p32) (operandSeg (rg 0 0x2000 p32) (addrBitsOfPfx p0) atA)
      (effAddr (rg 0 0x2000 p32) (addrBitsOfPfx p0) (instrLen (.stmxcsr p0 atA)) atA) 4 .write .mxcsrStore = true := by
  decide +kernel
/-- VstmxcsrStores. -/
theorem met_vstmxcsr : Memory.wf (rg 0 0x2000 p32).mem = true ∧ (vx 0 false).l = false ∧ (vx 0 false).vvvv = 0 ∧
    realOrV86 (rg 0 0x2000 p32) = false ∧ (rg 0 0x2000 p32).features.hasAvx = true ∧
    cr4OSXSAVE (rg 0 0x2000 p32) = true ∧ xcr0SseAvx (rg 0 0x2000 p32) = 3 ∧ cr0TS (rg 0 0x2000 p32) = false ∧
    accessOk (rg 0 0x2000 p32) (operandSeg (rg 0 0x2000 p32) (addrBitsOfVex (vx 0 false)) atA)
      (effAddr (rg 0 0x2000 p32) (addrBitsOfVex (vx 0 false)) (instrLen (.vstmxcsr (vx 0 false) atA)) atA) 4 .write
        .mxcsrStore = true := by decide +kernel
/-- StosStoresAndSteps: each address size, the index at the end of its range for the 16-bit one. -/
theorem met_stos : Memory.wf (st64 0x2000).mem = true ∧ p0.lock = false ∧
    addrSize (codeCtx (rg 7 0xFFFF real)) false = .a16 ∧
    accessOk (rg 7 0xFFFF real) .es (addrReg (rg 7 0xFFFF real) .a16 7) 1 .write .plain = true ∧
    addrSize (codeCtx (st32 0x1000)) false = .a32 ∧
    accessOk (st32 0x1000) .es (addrReg (st32 0x1000) .a32 7) 4 .write .plain = true ∧
    addrSize (codeCtx (st64 0x2000)) false = .a64 ∧
    accessOk (st64 0x2000) .es (addrReg (st64 0x2000) .a64 7) 8 .write .plain = true := by decide +kernel

/-! ## Hypotheses that can be met: square roots -/

/-- 4.0 in every double lane of register 1 and of memory at 2000H. -/
def roots : State :=
  rg 0 0x2000 (put 0x2000 (List.flatten (List.replicate 4 [0, 0, 0, 0, 0, 0, 0x10, 0x40]))
    (yr 1 0x4010000000000000401000000000000040100000000000004010000000000000 p32))

/-- LegacyPackedRoots, LegacyScalarRoots: register and memory source. -/
theorem met_legacyRoots : legacyAvailable roots p0.lock true = true ∧
    ([.sqrtpd p66 0 (.reg 1), .sqrtpd p66 0 (.mem atA), .sqrtps p0 0 (.reg 1), .sqrtps p0 0 (.mem atA),
      .sqrtsd p0 0 (.reg 1), .sqrtsd p0 0 (.mem atA), .sqrtss p0 0 (.reg 1), .sqrtss p0 0 (.mem atA)] : List Instr).all
        (fun i => available i roots && (laneFlags i roots).all (masked roots)) = true ∧
    sourceOk 128 roots (addrBitsOfPfx p66) (instrLen (.sqrtpd p66 0 (.mem atA))) (.mem atA) .packed16 = true ∧
    sourceOk 64 roots (addrBitsOfPfx p0) (instrLen (.sqrtsd p0 0 (.mem atA))) (.mem atA) .plain = true ∧
    sourceOk 32 roots (addrBitsOfPfx p0) (instrLen (.sqrtss p0 0 (.mem atA))) (.mem atA) .plain = true := by
  decide +kernel
/-- VexPackedDoubleRoots, VexPackedSingleRoots, VexScalarRoots: register and memory source. -/
theorem met_vexRoots : vexAvailable roots false = true ∧ vexAvailable roots ((vx 0 false).vvvv != 0) = true ∧
    ([.vsqrtpdXmm (vx 0 false) 0 (.reg 1), .vsqrtpdYmm (vx 0 true) 0 (.mem atA), .vsqrtpsXmm (vx 0 false) 0 (.mem atA),
      .vsqrtpsYmm (vx 0 true) 0 (.reg 1), .vsqrtsd (vx 2 true) 0 (.mem atA), .vsqrtss (vx 2 false) 0 (.mem atA)] :
        List Instr).all (fun i => available i roots && (laneFlags i roots).all (masked roots)) = true ∧
    sourceOk 128 roots (addrBitsOfVex (vx 0 false)) (instrLen (.vsqrtpdXmm (vx 0 false) 0 (.mem atA))) (.mem atA) .plain =
      true ∧
    sourceOk 256 roots (addrBitsOfVex (vx 0 true)) (instrLen (.vsqrtpdYmm (vx 0 true) 0 (.mem atA))) (.mem atA) .plain =
      true ∧
    sourceOk 64 roots (addrBitsOfVex (vx 2 true)) (instrLen (.vsqrtsd (vx 2 true) 0 (.mem atA))) (.mem atA) .plain = true ∧
    sourceOk 32 roots (addrBitsOfVex (vx 2 false)) (instrLen (.vsqrtss (vx 2 false) 0 (.mem atA))) (.mem atA) .plain =
      true := by decide +kernel
/-- RootsAreCorrectlyRounded, with D raised and not: the smallest positive input, the largest finite one, the smallest normal one with DAZ. -/
theorem met_rounded : (0 < (1 : BitVec 64).toNat ∧ (0x7FEFFFFFFFFFFFFF : BitVec 64).toNat < 0x7FF0000000000000) ∧
    0x0010000000000000 ≤ (0x0010000000000000 : BitVec 64).toNat ∧
    (0 < (1 : BitVec 32).toNat ∧ (0x7F7FFFFF : BitVec 32).toNat < 0x7F800000) ∧
    0x00800000 ≤ (0x00800000 : BitVec 32).toNat := by decide
/-- SpecialRoots, each class of the double format at a boundary: smallest QNaN, SNaNs, largest negative normal. -/
theorem met_special64 : ((0x7FF8000000000000 : BitVec 64).extractLsb' 52 11 = 0x7FF ∧
      (0x7FF8000000000000 : BitVec 64).getLsbD 51 = true) ∧
    ((0xFFF0000000000001 : BitVec 64).extractLsb' 52 11 = 0x7FF ∧ (0xFFF0000000000001 : BitVec 64).getLsbD 51 = false ∧
      (0xFFF0000000000001 : BitVec 64).extractLsb' 0 51 ≠ 0) ∧
    ((0x8010000000000000 : BitVec 64).getLsbD 63 = true ∧ (0x8010000000000000 : BitVec 64).extractLsb' 52 11 ≠ 0 ∧
      (0x8010000000000000 : BitVec 64).extractLsb' 52 11 ≠ 0x7FF) := by decide
/-- SpecialRoots, the single format. -/
theorem met_special32 : ((0x7FC00000 : BitVec 32).extractLsb' 23 8 = 0xFF ∧ (0x7FC00000 : BitVec 32).getLsbD 22 = true) ∧
    ((0xFF800001 : BitVec 32).extractLsb' 23 8 = 0xFF ∧ (0xFF800001 : BitVec 32).getLsbD 22 = false ∧
      (0xFF800001 : BitVec 32).extractLsb' 0 22 ≠ 0) ∧
    ((0x80800000 : BitVec 32).getLsbD 31 = true ∧ (0x80800000 : BitVec 32).extractLsb' 23 8 ≠ 0 ∧
      (0x80800000 : BitVec 32).extractLsb' 23 8 ≠ 0xFF) := by decide
/-- DenormalRoots, both signs, both formats. -/
theorem met_denormal : ((1 : BitVec 64).extractLsb' 52 11 = 0 ∧ (1 : BitVec 64).extractLsb' 0 52 ≠ 0 ∧
      (1 : BitVec 64).getLsbD 63 = false) ∧
    ((0x800FFFFFFFFFFFFF : BitVec 64).extractLsb' 52 11 = 0 ∧ (0x800FFFFFFFFFFFFF : BitVec 64).extractLsb' 0 52 ≠ 0 ∧
      (0x800FFFFFFFFFFFFF : BitVec 64).getLsbD 63 = true) ∧
    ((1 : BitVec 32).extractLsb' 23 8 = 0 ∧ (1 : BitVec 32).extractLsb' 0 23 ≠ 0 ∧ (1 : BitVec 32).getLsbD 31 = false) ∧
    ((0x807FFFFF : BitVec 32).extractLsb' 23 8 = 0 ∧ (0x807FFFFF : BitVec 32).extractLsb' 0 23 ≠ 0 ∧
      (0x807FFFFF : BitVec 32).getLsbD 31 = true) := by decide
/-- UnmaskedConditionFaults: minus one with IM = 0. -/
theorem met_unmasked :
    available (.sqrtsd p0 0 (.reg 1)) { yr 1 0xBFF0000000000000 p32 with mxcsr := 0x1F00 } = true ∧
    memAccess (.sqrtsd p0 0 (.reg 1)) { yr 1 0xBFF0000000000000 p32 with mxcsr := 0x1F00 } = none ∧
    (laneFlags (.sqrtsd p0 0 (.reg 1)) { yr 1 0xBFF0000000000000 p32 with mxcsr := 0x1F00 }).all
      (masked { yr 1 0xBFF0000000000000 p32 with mxcsr := 0x1F00 }) = false := by decide +kernel
/-- LegacySseUnavailable, VexUnavailable: the #NM branch, all else in order. -/
theorem met_notAvailable : cr0TS { p32 with cr0 := 0x8005003B } = true ∧ cr0EM { p32 with cr0 := 0x8005003B } = false ∧
    cr4OSFXSR { p32 with cr0 := 0x8005003B } = true ∧ mode { p32 with cr0 := 0x8005003B } = .prot ∧
    cr4OSXSAVE { p32 with cr0 := 0x8005003B } = true ∧ xcr0SseAvx { p32 with cr0 := 0x8005003B } = 3 ∧
    mode real = .real ∧ mode v86 = .v86 := by decide +kernel
/-- ReservedVexFields, each clause, in both modes; LockRaisesUd. -/
theorem met_reserved : (vx 1 false).vvvv ≠ 0 ∧ (vx 0 true).l = true ∧ (vx 7 true).wellFormed ⟨false, true⟩ = true ∧
    (vx 15 false).wellFormed ⟨true, false⟩ = true ∧ (vx 0 true).wellFormed ⟨false, true⟩ = true ∧
    locked (.str pL (.reg 0)) = true := by decide

/-! ## Hypotheses that can be met: memory exceptions -/

/-- UnreachableOperand: the last byte one past the limit, in real-address mode; and the first byte that is not
canonical. -/
theorem met_unreachable :
    available (.stosM16 p0) (rg 7 0xFFFF real) = true ∧
    memAccess (.stosM16 p0) (rg 7 0xFFFF real) = some ⟨.es, 0xFFFF, 2, .write, .plain⟩ ∧
    in64 (rg 7 0xFFFF real) = false ∧
    (segReg (rg 7 0xFFFF real) .es).limit.toNat < (0xFFFF : BitVec 64).toNat + 2 - 1 ∧
    memAccess (.stosM16 p0) (rg 7 0x7FFFFFFFFFFF p64) = some ⟨.es, 0x7FFFFFFFFFFF, 2, .write, .plain⟩ ∧
    in64 (rg 7 0x7FFFFFFFFFFF p64) = true ∧
    canonical (linearAddr (rg 7 0x7FFFFFFFFFFF p64) .es 0x7FFFFFFFFFFF + BitVec.ofNat 64 1) = false := by decide +kernel
/-- SegmentRightsFault, each clause: ES not writable; DS not readable; ES NULL; SS NULL for STR and STMXCSR; SS not
writable for SMSW; SS not readable for SQRTSS. -/
theorem met_rights :
    (mode { p32 with es := { flat with writable := false } } = .prot ∧
      memAccess (.stosM8 p0) { p32 with es := { flat with writable := false } } = some ⟨.es, 0, 1, .write, .plain⟩) ∧
    memAccess (.sqrtss p0 0 (.mem atA)) { p32 with ds := { flat with readable := false } } =
      some ⟨.ds, 0, 4, .read, .plain⟩ ∧
    available (.sqrtss p0 0 (.mem atA)) { p32 with ds := { flat with readable := false } } = true ∧
    nullSelector (segReg { p32 with es := { flat with sel := 3 } } .es) = true ∧
    memAccess (.smswR32M16 p0 (.mem (.memBase 5 (.d8 0)))) { p32 with ss := { flat with writable := false } } =
      some ⟨.ss, 0, 2, .write, .plain⟩ ∧
    raised (exec (.smswR32M16 p0 (.mem (.memBase 5 (.d8 0)))) { p32 with ss := { flat with writable := false } }) =
      some (.gp, some 0) ∧
    memAccess (.sqrtss p0 0 (.mem (.memBase 5 (.d8 0)))) { p32 with ss := { flat with readable := false } } =
      some ⟨.ss, 0, 4, .read, .plain⟩ ∧
    raised (exec (.str p0 (.mem (.memBase 5 (.d8 0)))) { p32 with ss := { flat with sel := 0 } }) = some (.gp, some 0) ∧
    raised (exec (.stmxcsr p0 (.memBase 5 (.d8 0))) { p32 with ss := { flat with sel := 0 } }) = some (.ss, some 0) ∧
    raised (exec (.stmxcsr p0 (.memBase 5 (.d8 0))) { p32 with ss := { flat with writable := false } }) =
      some (.ss, some 0) := by decide +kernel
/-- CPL 3 under AM and AC. -/
def acState (v : Nat) : State := { rg 0 v (rg 7 v p32) with cpl := 3, eflags := 0x40002 }
/-- AlignmentCheckFault: 2, 4 and 8 bytes, one off. -/
theorem met_alignment : cr0AM (acState 0x2001) = true ∧ flagAC (acState 0x2001) = true ∧ currentCpl (acState 0x2001) = 3 ∧
    segCheck (acState 0x2001) .es 0x2001 2 .write .plain = none ∧
    memAccess (.stosM16 p66) (acState 0x2001) = some ⟨.es, 0x2001, 2, .write, .plain⟩ ∧
    (linearAddr (acState 0x2001) .es 0x2001).toNat % 2 ≠ 0 ∧
    memAccess (.stmxcsr p0 atA) (acState 0x2002) = some ⟨.ds, 0x2002, 4, .write, .mxcsrStore⟩ ∧
    available (.stmxcsr p0 atA) (acState 0x2002) = true ∧ (linearAddr (acState 0x2002) .ds 0x2002).toNat % 4 ≠ 0 ∧
    memAccess (.sqrtsd p0 0 (.mem atA)) (acState 0x2004) = some ⟨.ds, 0x2004, 8, .read, .plain⟩ ∧
    available (.sqrtsd p0 0 (.mem atA)) (acState 0x2004) = true ∧
    (linearAddr (acState 0x2004) .ds 0x2004).toNat % 8 ≠ 0 := by decide +kernel
/-- MisalignedLegacyPacked. -/
theorem met_misaligned : available (.sqrtpd p66 0 (.mem atA)) (rg 0 0x2008 p32) = true ∧
    memAccess (.sqrtpd p66 0 (.mem atA)) (rg 0 0x2008 p32) = some ⟨.ds, 0x2008, 16, .read, .packed16⟩ ∧
    segCheck (rg 0 0x2008 p32) .ds 0x2008 16 .read .packed16 = none ∧ in64 (rg 0 0x2008 p32) = false ∧
    (linearAddr (rg 0 0x2008 p32) .ds 0x2008).toNat % 16 ≠ 0 := by decide +kernel
/-- EDI one byte below the range of one page entry. -/
def pageState (r : PageRange) : State := { rg 7 0x2FFF p32 with pages := [r] }
/-- PageFaultReports: the second of two bytes hits a page not present; a supervisor page at CPL 3; a read-only page. -/
theorem met_pageFault :
    (available (.stosM16 p66) (pageState ⟨0x3000, 0x1000, 0, false, true, true⟩) = true ∧
      memAccess (.stosM16 p66) (pageState ⟨0x3000, 0x1000, 0, false, true, true⟩) = some ⟨.es, 0x2FFF, 2, .write, .plain⟩ ∧
      segCheck (pageState ⟨0x3000, 0x1000, 0, false, true, true⟩) .es 0x2FFF 2 .write .plain = none ∧
      cr0PE (pageState ⟨0x3000, 0x1000, 0, false, true, true⟩) = true ∧
      cr0PG (pageState ⟨0x3000, 0x1000, 0, false, true, true⟩) = true ∧
      pageFaults (pageState ⟨0x3000, 0x1000, 0, false, true, true⟩) .write 0x2FFF = false ∧
      pageOf (pageState ⟨0x3000, 0x1000, 0, false, true, true⟩) 0x3000 = some ⟨0x3000, 0x1000, 0, false, true, true⟩) ∧
    pageDenies { pageState ⟨0x3000, 0x1000, 0, true, true, false⟩ with cpl := 3 } .write
      ⟨0x3000, 0x1000, 0, true, true, false⟩ = true ∧
    (cr0WP (pageState ⟨0x3000, 0x1000, 0, true, false, true⟩) = true ∧
      raised (exec (.stosM16 p66) (pageState ⟨0x3000, 0x1000, 0, true, false, true⟩)) = some (.pf, some 3)) := by
  decide +kernel
/-- A store of four bytes at 3FFFFDH, where the text is the byte at 400000H. -/
def atText : State := { st32 0x3FFFFD with text := ⟨0x400000, 1⟩ }
/-- The same store where the text is the byte at 900000H, which a page maps to the physical byte 400000H. -/
def atTextAlias : State := { st32 0x3FFFFD with text := ⟨0x900000, 1⟩, pages := [⟨0x900000, 0x1000, 0x400000, true, false, true⟩] }
/-- StoreToTextRefused: the last byte of the store is the first of the text, by its own address and by another. -/
theorem met_storeToText : available (.stosM32 p0) atText = true ∧ segCheck atText .es 0x3FFFFD 4 .write .plain = none ∧
    alignFault atText 0x3FFFFD 4 .plain = none ∧ (operandAddrs atText .es 0x3FFFFD 4).any (inText atText) = true ∧
    0x400000 ∈ operandAddrs atTextAlias .es 0x3FFFFD 4 ∧ inText atTextAlias 0x900000 = true ∧
    pageFaults atTextAlias .execute 0x900000 = false ∧ physOf atTextAlias 0x900000 = physOf atTextAlias 0x400000 ∧
    (operandAddrs atTextAlias .es 0x3FFFFD 4).all (fun x => !pageFaults atTextAlias .write x) = true ∧
    textCell atTextAlias 0x400000 = true ∧ textCell atTextAlias 0x400001 = false := by decide +kernel
/-- StoreToTextRefused, the second clause: a step with a byte of the text that can be fetched. -/
theorem met_textKept : Memory.wf (prog [0xAB] (st32 0x1000)).mem = true ∧ inText (prog [0xAB] (st32 0x1000)) 0x400000 = true ∧
    pageFaults (prog [0xAB] (st32 0x1000)) .execute 0x400000 = false := by decide +kernel

/-! ## Hypotheses that can be met: the whole machine -/

/-- ResetConsequences, the memory clause: the last two bytes of the reach of DS. -/
theorem met_reset : p0.lock = false ∧ accessOk State.reset (operandSeg State.reset (addrBitsOfPfx p0) (.mem16Abs 0xFFFE))
    (effAddr State.reset (addrBitsOfPfx p0) (instrLen (.smswRm16 p0 (.mem (.mem16Abs 0xFFFE)))) (.mem16Abs 0xFFFE)) 2 .write
      .plain = true := by decide +kernel
/-- ExceptionsArePrecise, OnlyListedExceptions, ErrorCodes: a fault with a code, one without, one in real-address mode. -/
theorem met_exception :
    (∃ left, exec (.sqrtpd p66 0 (.mem atA)) (rg 0 0x2008 p32) = .fault (.exception .gp (some 0) left)) ∧
    (∃ left, exec (.str p0 (.reg 0)) v86 = .fault (.exception .ud none left)) ∧
    (∃ left, exec (.stosM16 p0) (rg 7 0xFFFF real) = .fault (.exception .gp none left)) :=
  ⟨exists_of_raised (by decide +kernel), exists_of_raised (by decide +kernel), exists_of_raised (by decide +kernel)⟩
/-- StepKeepsInv, StepKeepsConstants, LegacyModesKeepUpperState. -/
theorem met_step : inv (prog [0xAB] (st32 0x1000)) = true ∧ in64 (prog [0xAB] (st32 0x1000)) = false ∧
    ∃ t, step (prog [0xAB] (st32 0x1000)) = .next t ∧ (t.pc == 0x400001) = true :=
  ⟨by decide +kernel, by decide +kernel, exists_of_gives (f := fun t => t.pc == 0x400001) (by decide +kernel)⟩
/-- FlagWriters, MxcsrIsSticky, PcAdvancesByLength: a flag of EFLAGS and one of MXCSR that change. -/
theorem met_writers : (∃ t, exec (.stc p0) p32 = .next t ∧ (t.eflags.getLsbD 0 != p32.eflags.getLsbD 0) = true) ∧
    ∃ t, exec (.sqrtss p0 0 (.reg 1)) (yr 1 0x40000000 p32) = .next t ∧
      (t.mxcsr.getLsbD 5 != p32.mxcsr.getLsbD 5) = true :=
  ⟨exists_of_gives (f := fun t => t.eflags.getLsbD 0 != p32.eflags.getLsbD 0) (by decide +kernel),
    exists_of_gives (f := fun t => t.mxcsr.getLsbD 5 != p32.mxcsr.getLsbD 5) (by decide +kernel)⟩
/-- StepRunsDecoded, EventsAtBoundary: an external interrupt pending while IF = 0, and a recognised NMI. -/
theorem met_boundary : atEnd (prog [0xF9] { real with inputs := [⟨true, false, false⟩] }) = false ∧
    recognised (prog [0xF9] { real with inputs := [⟨true, false, false⟩] }) = [] ∧
    flagTF (prog [0xF9] { real with inputs := [⟨true, false, false⟩] }) = false ∧
    decode (codeCtx (prog [0xF9] real)) (codeBytes (prog [0xF9] real)) = .ok (.stc p0) [] ∧
    Instr.wellFormed (codeCtx (prog [0xF9] real)) (.stc p0) = true ∧
    recognised (prog [0xF9] { real with inputs := [⟨true, true, false⟩] }) = [.nmi] := by decide +kernel

end Sys2Proof.Tests
end

section
/-! PROOFS. What an instruction that completes can have done to the state, said once for all 27 rows. -/

namespace Sys2Proof.Machine

/-! ## Checks in front of a meaning -/

/-- A meaning that raises under a condition answers exactly when the condition fails and the rest answers. -/
theorem ite_raise_eq_next {c : Prop} [Decidable c] {s t : State} {e : Exc} {code : BitVec 32}
    {o : Host.Outcome State Fault Refusal} :
    (if c then raise s e code else o) = .next t ↔ ¬ c ∧ o = .next t := by
  by_cases h : c <;> simp [h]

/-- A legacy square root answers exactly when it is available and its shared part answers (41_sqrt.md R127). -/
theorem legacySqrt_eq_next {w len : Nat} {has : Bool} {rule : AccessRule} {p : Pfx} {reg : BitVec 3} {rm : RM}
    {f : BitVec w → BitVec 2 → Bool → BitVec w × List FpFlags} {s t : State} :
    legacySqrt w len has rule p reg rm f s = .next t ↔
      legacyAvailable s p.lock has = true ∧
        sqrtBody w (addrBitsOfPfx p) len (regNum s p.r reg) rm rule f
          (keepAbove w (readYmm s (regNum s p.r reg))) s = .next t := by
  rw [← legacySseCheck_eq_none_iff, legacySqrt]
  cases legacySseCheck s p.lock has <;> simp

/-- A packed VEX square root answers exactly when it is available and its shared part answers (41_sqrt.md R127). -/
theorem vexPackedSqrt_eq_next {w len : Nat} {v : Vex} {reg : BitVec 3} {rm : RM}
    {f : BitVec w → BitVec 2 → Bool → BitVec w × List FpFlags} {s t : State} :
    vexPackedSqrt w len v reg rm f s = .next t ↔
      vexAvailable s (v.vvvv != 0) = true ∧
        sqrtBody w (addrBitsOfVex v) len (regNum s v.r reg) rm .plain f (fun r => r.setWidth 256) s = .next t := by
  rw [← vexCheck_eq_none_iff, vexPackedSqrt]
  cases vexCheck s (v.vvvv != 0) <;> simp

/-- A scalar VEX square root answers exactly when it is available and its shared part answers (41_sqrt.md R127). -/
theorem vexScalarSqrt_eq_next {w len : Nat} {v : Vex} {reg : BitVec 3} {rm : RM}
    {f : BitVec w → BitVec 2 → Bool → BitVec w × List FpFlags} {s t : State} :
    vexScalarSqrt w len v reg rm f s = .next t ↔
      vexAvailable s false = true ∧
        sqrtBody w (addrBitsOfVex v) len (regNum s v.r reg) rm .plain f
          (mergeScalar w (readYmm s (vvvvNum s v.vvvv))) s = .next t := by
  rw [← vexCheck_eq_none_iff, vexScalarSqrt]
  cases vexCheck s false <;> simp

/-- STMXCSR answers exactly when it is available and its store answers (43_stmxcsr.md R158). -/
theorem execStmxcsr_eq_next {p : Pfx} {m : MemForm} {s t : State} :
    execStmxcsr p m s = .next t ↔
      legacyAvailable s p.lock s.features.hasSse = true ∧
        mxcsrToMem (instrLen (.stmxcsr p m)) (addrBitsOfPfx p) m s = .next t := by
  rw [← legacySseCheck_eq_none_iff, execStmxcsr]
  cases legacySseCheck s p.lock s.features.hasSse <;> simp

/-- VSTMXCSR answers exactly when it is available and its store answers (43_stmxcsr.md R158). -/
theorem execVstmxcsr_eq_next {v : Vex} {m : MemForm} {s t : State} :
    execVstmxcsr v m s = .next t ↔
      vexAvailable s (v.l || v.vvvv != 0) = true ∧
        mxcsrToMem (instrLen (.vstmxcsr v m)) (addrBitsOfVex v) m s = .next t := by
  rw [← vexCheck_eq_none_iff, execVstmxcsr]
  cases vexCheck s (v.l || v.vvvv != 0) <;> simp

/-- What STI answers: by its action IF with the delay, or VIF (42_flag_set.md R147, R151). -/
theorem execSti_eq_next {p : Pfx} {s t : State} :
    execSti p s = .next t ↔
      p.lock = false ∧
        ((stiActionOf s = .setIF ∧
            t = { retire (instrLen (.sti p)) (setIF s) with stiShadow := !flagIF s, afterSti := true }) ∨
          (stiActionOf s = .setVIF ∧ t = { retire (instrLen (.sti p)) (setVIF s) with afterSti := true })) := by
  rw [execSti, ite_raise_eq_next, Bool.not_eq_true]
  refine and_congr_right fun _ => ?_
  cases stiActionOf s with
  | setIF => simp only [Host.Outcome.next.injEq, true_and, reduceCtorEq, false_and, or_false, eq_comm]
  | setVIF => simp only [Host.Outcome.next.injEq, true_and, reduceCtorEq, false_and, false_or, eq_comm]
  | fault => simp only [raise_ne_next, reduceCtorEq, false_and, or_false]

/-! ## Operand and address sizes -/

/-- The operand size is 64 bits in 64-bit mode only (30_encoding.md R88). -/
theorem m64_of_operandSize {c : CodeCtx} {opsz w : Bool} (h : operandSize c opsz w = .o64) : c.m64 = true := by
  unfold operandSize at h
  split at h
  · assumption
  · split at h <;> cases h

/-- The index register of STOS has 64 bits in 64-bit mode only (30_encoding.md R89, 44_stos.md R163). -/
theorem m64_of_indexSize {c : CodeCtx} {adsz : Bool} (h : indexSize (addrSize c adsz) = .o64) : c.m64 = true := by
  unfold addrSize at h
  split at h
  · assumption
  · split at h <;> cases h

/-! ## The flags of the lanes -/

theorem sqrtPd128_flags (s : State) (v : BitVec 128) :
    (sqrtPd128 v (mxcsrRC s) (mxcsrDAZ s)).2 = laneFlags64 s v 2 := rfl
theorem sqrtPd256_flags (s : State) (v : BitVec 256) :
    (sqrtPd256 v (mxcsrRC s) (mxcsrDAZ s)).2 = laneFlags64 s v 4 := rfl
theorem sqrtPs128_flags (s : State) (v : BitVec 128) :
    (sqrtPs128 v (mxcsrRC s) (mxcsrDAZ s)).2 = laneFlags32 s v 4 := rfl
theorem sqrtPs256_flags (s : State) (v : BitVec 256) :
    (sqrtPs256 v (mxcsrRC s) (mxcsrDAZ s)).2 = laneFlags32 s v 8 := rfl
theorem sqrtSd_flags (s : State) (v : BitVec 64) :
    (sqrtSd v (mxcsrRC s) (mxcsrDAZ s)).2 = laneFlags64 s v 1 := by
  simp [sqrtSd, laneFlags64]
theorem sqrtSs_flags (s : State) (v : BitVec 32) :
    (sqrtSs v (mxcsrRC s) (mxcsrDAZ s)).2 = laneFlags32 s v 1 := by
  simp [sqrtSs, laneFlags32]

end Sys2Proof.Machine
end

section
/-! PROOFS. The effect of a completed instruction: the five ways in which the 27 rows change the state. -/

namespace Sys2Proof.Machine

/-- A square root of at least one double-precision lane raises flags for it. -/
theorem laneFlags64_ne_nil {w n : Nat} {s : State} {v : BitVec w} (hn : n ≠ 0) : laneFlags64 s v n ≠ [] := by
  simpa [laneFlags64] using hn

/-- A square root of at least one single-precision lane raises flags for it. -/
theorem laneFlags32_ne_nil {w n : Nat} {s : State} {v : BitVec w} (hn : n ≠ 0) : laneFlags32 s v n ≠ [] := by
  simpa [laneFlags32] using hn

/-- The writers of EFLAGS (10_state.md R24): STC has CF, STD has DF, STI has IF and VIF. -/
def writesFlagBit (i : Instr) (k : Nat) : Prop :=
  (k = 0 ∧ ∃ p, i = .stc p) ∨ (k = 10 ∧ ∃ p, i = .std p) ∨ ((k = 9 ∨ k = 19) ∧ ∃ p, i = .sti p)

/-- What a completed instruction has done to the state, values apart. `exec_effect` ties it to the model. -/
inductive Effect (i : Instr) (s : State) : State → Prop
  /-- SMSW and STR to a register; SMSW r32 may have drawn a free value (40_smsw.md R109 to R112, 45_str.md R176). -/
  | toGpr (draws : Nat) (ext : Bool) (n : BitVec 3) (size : OpSize) (v : BitVec 64)
      (h64 : size = .o64 → in64 s = true ∨ ∃ p rm, i = .smswR64M16 p rm) :
      Effect i s (retire (instrLen i) (writeGpr { s with freeIdx := draws } (regNum s ext n) size v))
  /-- SMSW, STR, STMXCSR and VSTMXCSR to memory (40_smsw.md R113, 43_stmxcsr.md R155, 45_str.md R177). -/
  | toMem (l : List (Nat × Byte)) : Effect i s (retire (instrLen i) (setMem s (memWriteAll s.mem l)))
  /-- STOS: memory, and the index register at the address size (44_stos.md R173). -/
  | string (l : List (Nat × Byte)) (size : OpSize) (v : BitVec 64) (h64 : size = .o64 → in64 s = true) :
      Effect i s (retire (instrLen i) (writeGpr (setMem s (memWriteAll s.mem l)) 7 size v))
  /-- A square root: a vector register, and the flags of its lanes in MXCSR (41_sqrt.md R126, R140). -/
  | root (hne : laneFlags i s ≠ []) (ext : Bool) (n : BitVec 3) (v : BitVec 256) :
      Effect i s (retire (instrLen i)
        (setYmm (setMxcsr s (s.mxcsr ||| allFlagBits (laneFlags i s))) (regNum s ext n) v))
  /-- STC, STD, STI: one bit of EFLAGS; STI leaves what the next boundary asks (42_flag_set.md R142 to R151). -/
  | setsBit (k : Nat) (hk : writesFlagBit i k) (shadow after : Bool) :
      Effect i s { retire (instrLen i) (setFlag k s) with stiShadow := shadow, afterSti := after }

/-- The memory form of SMSW stores and does no more. -/
theorem smswToMem_effect {i : Instr} {p : Pfx} {m : MemForm} {s t : State}
    (h : smswToMem (instrLen i) p m s = .next t) : Effect i s t := by
  obtain ⟨-, rfl⟩ := smswToMem_eq_next.1 h
  exact .toMem _

/-- STMXCSR and VSTMXCSR store and do no more. -/
theorem mxcsrToMem_effect {i : Instr} {e : AddrBits} {m : MemForm} {s t : State}
    (h : mxcsrToMem (instrLen i) e m s = .next t) : Effect i s t := by
  obtain ⟨-, rfl⟩ := mxcsrToMem_eq_next.1 h
  exact .toMem _

/-- STOS stores and steps its index. -/
theorem stos_effect {i : Instr} {n : Nat} {p : Pfx} {s t : State} (h : stos n (instrLen i) p s = .next t) :
    Effect i s t := by
  obtain ⟨-, -, rfl⟩ := stos_eq_next.1 h
  exact .string _ _ _ m64_of_indexSize

/-- A square root writes its destination and the flags of its lanes. -/
theorem sqrtBody_effect {i : Instr} {w : Nat} {e : AddrBits} {ext : Bool} {n : BitVec 3} {rm : RM} {rule : AccessRule}
    {f : BitVec w → BitVec 2 → Bool → BitVec w × List FpFlags} {dest : BitVec w → BitVec 256} {s t : State}
    (hf : (f (sourceValue w s e (instrLen i) rm) (mxcsrRC s) (mxcsrDAZ s)).2 = laneFlags i s)
    (hne : laneFlags i s ≠ [])
    (h : sqrtBody w e (instrLen i) (regNum s ext n) rm rule f dest s = .next t) : Effect i s t := by
  obtain ⟨-, -, rfl⟩ := sqrtBody_eq_next.1 h
  rw [hf]
  exact .root hne ext n _

/-- SMSW r/m16 (40_smsw.md R109, R113). -/
theorem execSmswRm16_effect {p : Pfx} {rm : RM} {s t : State} (h : execSmswRm16 p rm s = .next t) :
    Effect (.smswRm16 p rm) s t := by
  obtain ⟨-, h⟩ := ite_raise_eq_next.1 h
  cases rm with
  | reg n =>
    obtain rfl := Host.Outcome.next.inj h
    exact .toGpr s.freeIdx p.b n .o16 _ nofun
  | mem m => exact smswToMem_effect h

/-- SMSW r32/m16 (40_smsw.md R110, R111, R113): outside 64-bit mode the register form draws a free value. -/
theorem execSmswR32M16_effect {p : Pfx} {rm : RM} {s t : State} (h : execSmswR32M16 p rm s = .next t) :
    Effect (.smswR32M16 p rm) s t := by
  obtain ⟨-, h⟩ := ite_raise_eq_next.1 h
  cases rm with
  | reg n =>
    obtain rfl := Host.Outcome.next.inj h
    unfold smswToReg32
    split
    · exact .toGpr s.freeIdx p.b n .o32 _ nofun
    · exact .toGpr (s.freeIdx + 1) p.b n .o32 _ nofun
  | mem m => exact smswToMem_effect h

/-- SMSW r64/m16 (40_smsw.md R112, R113). -/
theorem execSmswR64M16_effect {p : Pfx} {rm : RM} {s t : State} (h : execSmswR64M16 p rm s = .next t) :
    Effect (.smswR64M16 p rm) s t := by
  obtain ⟨-, h⟩ := ite_raise_eq_next.1 h
  cases rm with
  | reg n =>
    obtain rfl := Host.Outcome.next.inj h
    exact .toGpr s.freeIdx p.b n .o64 _ fun _ => .inr ⟨p, .reg n, rfl⟩
  | mem m => exact smswToMem_effect h

/-- STR (45_str.md R176, R177). -/
theorem execStr_effect {p : Pfx} {rm : RM} {s t : State} (h : execStr p rm s = .next t) : Effect (.str p rm) s t := by
  obtain ⟨-, h⟩ := ite_raise_eq_next.1 h
  obtain ⟨-, h⟩ := ite_raise_eq_next.1 h
  cases rm with
  | reg n =>
    obtain rfl := Host.Outcome.next.inj h
    exact .toGpr s.freeIdx p.b n _ _ fun h => .inl (m64_of_operandSize h)
  | mem m =>
    obtain ⟨u, hu, ht⟩ := andThen_eq_next.1 h
    obtain ⟨-, rfl⟩ := storeMem_eq_next.1 hu
    obtain rfl := Host.Outcome.next.inj ht
    exact .toMem _

/-- STC (42_flag_set.md R142). -/
theorem execStc_effect {p : Pfx} {s t : State} (h : execStc p s = .next t) : Effect (.stc p) s t := by
  obtain ⟨-, h⟩ := ite_raise_eq_next.1 h
  obtain rfl := Host.Outcome.next.inj h
  exact .setsBit 0 (.inl ⟨rfl, p, rfl⟩) false false

/-- STD (42_flag_set.md R143). -/
theorem execStd_effect {p : Pfx} {s t : State} (h : execStd p s = .next t) : Effect (.std p) s t := by
  obtain ⟨-, h⟩ := ite_raise_eq_next.1 h
  obtain rfl := Host.Outcome.next.inj h
  exact .setsBit 10 (.inr (.inl ⟨rfl, p, rfl⟩)) false false

/-- STI (42_flag_set.md R147). -/
theorem execSti_effect {p : Pfx} {s t : State} (h : execSti p s = .next t) : Effect (.sti p) s t := by
  obtain ⟨-, ⟨-, rfl⟩ | ⟨-, rfl⟩⟩ := execSti_eq_next.1 h
  · exact .setsBit 9 (.inr (.inr ⟨.inl rfl, p, rfl⟩)) _ true
  · exact .setsBit 19 (.inr (.inr ⟨.inr rfl, p, rfl⟩)) false true

/-- Every instruction that completes has one of the five effects. -/
theorem exec_effect {i : Instr} {s t : State} (h : exec i s = .next t) : Effect i s t := by
  cases i with
  | smswRm16 p rm => exact execSmswRm16_effect h
  | smswR32M16 p rm => exact execSmswR32M16_effect h
  | smswR64M16 p rm => exact execSmswR64M16_effect h
  | sqrtpd p reg rm =>
    exact sqrtBody_effect (sqrtPd128_flags s _) (laneFlags64_ne_nil two_ne_zero) (legacySqrt_eq_next.1 h).2
  | vsqrtpdXmm v reg rm =>
    exact sqrtBody_effect (sqrtPd128_flags s _) (laneFlags64_ne_nil two_ne_zero) (vexPackedSqrt_eq_next.1 h).2
  | vsqrtpdYmm v reg rm =>
    exact sqrtBody_effect (sqrtPd256_flags s _) (laneFlags64_ne_nil four_ne_zero) (vexPackedSqrt_eq_next.1 h).2
  | sqrtps p reg rm =>
    exact sqrtBody_effect (sqrtPs128_flags s _) (laneFlags32_ne_nil four_ne_zero) (legacySqrt_eq_next.1 h).2
  | vsqrtpsXmm v reg rm =>
    exact sqrtBody_effect (sqrtPs128_flags s _) (laneFlags32_ne_nil four_ne_zero) (vexPackedSqrt_eq_next.1 h).2
  | vsqrtpsYmm v reg rm =>
    exact sqrtBody_effect (sqrtPs256_flags s _) (laneFlags32_ne_nil (Nat.succ_ne_zero 7)) (vexPackedSqrt_eq_next.1 h).2
  | sqrtsd p reg rm =>
    exact sqrtBody_effect (sqrtSd_flags s _) (laneFlags64_ne_nil one_ne_zero) (legacySqrt_eq_next.1 h).2
  | vsqrtsd v reg rm =>
    exact sqrtBody_effect (sqrtSd_flags s _) (laneFlags64_ne_nil one_ne_zero) (vexScalarSqrt_eq_next.1 h).2
  | sqrtss p reg rm =>
    exact sqrtBody_effect (sqrtSs_flags s _) (laneFlags32_ne_nil one_ne_zero) (legacySqrt_eq_next.1 h).2
  | vsqrtss v reg rm =>
    exact sqrtBody_effect (sqrtSs_flags s _) (laneFlags32_ne_nil one_ne_zero) (vexScalarSqrt_eq_next.1 h).2
  | stc p => exact execStc_effect h
  | std p => exact execStd_effect h
  | sti p => exact execSti_effect h
  | stmxcsr p m => exact mxcsrToMem_effect (execStmxcsr_eq_next.1 h).2
  | vstmxcsr v m => exact mxcsrToMem_effect (execVstmxcsr_eq_next.1 h).2
  | stosM8 p => exact stos_effect h
  | stosM16 p => exact stos_effect h
  | stosM32 p => exact stos_effect h
  | stosM64 p => exact stos_effect h
  | stosb p => exact stos_effect h
  | stosw p => exact stos_effect h
  | stosd p => exact stos_effect h
  | stosq p => exact stos_effect h
  | str p rm => exact execStr_effect h

end Sys2Proof.Machine
end

section
/-! PROOFS. What an instruction and a step keep: flags, MXCSR, constants, mode, program counter, invariant. -/

namespace Sys2Proof.Machine

/-! ## EFLAGS (10_state.md R24) -/

/-- Setting one bit of EFLAGS changes that bit alone, and to 1. -/
theorem setFlag_changes {b k : Nat} {s : State} (h : (setFlag b s).eflags.getLsbD k ≠ s.eflags.getLsbD k) :
    k = b ∧ (setFlag b s).eflags.getLsbD k = true := by
  have hbit : (1#32 <<< b).getLsbD k = true := by
    by_contra hb
    simp [BitVec.getLsbD_or, Bool.eq_false_iff.2 hb] at h
  refine ⟨?_, by simp [BitVec.getLsbD_or, hbit]⟩
  simp only [BitVec.getLsbD_shiftLeft, BitVec.getLsbD_one, Bool.and_eq_true, Bool.not_eq_true', decide_eq_true_eq,
    decide_eq_false_iff_not] at hbit
  omega

/-- A bit of EFLAGS that an instruction changes is one that it writes, and becomes 1. -/
theorem Effect.eflags_changes {i : Instr} {s t : State} (h : Effect i s t) {k : Nat}
    (hk : t.eflags.getLsbD k ≠ s.eflags.getLsbD k) : t.eflags.getLsbD k = true ∧ writesFlagBit i k := by
  cases h with
  | setsBit b hb =>
    obtain ⟨rfl, h1⟩ := setFlag_changes hk
    exact ⟨h1, hb⟩
  | toGpr | toMem | string | root => exact absurd rfl hk

/-- Settles O53, by the effect of each instruction: STC, STD and STI alone write EFLAGS. -/
theorem flagWriters : Obligations.FlagWriters := fun _ _ _ _ h hk => (exec_effect h).eflags_changes hk

/-- The flags that instructions write are CF, IF, DF and VIF. -/
theorem writesFlagBit_bits {i : Instr} {k : Nat} (h : writesFlagBit i k) : k = 0 ∨ k = 9 ∨ k = 10 ∨ k = 19 := by
  obtain ⟨rfl, -⟩ | ⟨rfl, -⟩ | ⟨rfl | rfl, -⟩ := h <;> decide

/-! ## MXCSR (10_state.md R32, R33) -/

/-- The flags that the lanes of a square root gain are IE, DE and PE. -/
theorem allFlagBits_bits {fs : List FpFlags} {k : Nat} (h : (allFlagBits fs).getLsbD k = true) :
    k = 0 ∨ k = 1 ∨ k = 5 := by
  rw [allFlagBits_getLsbD] at h
  simp only [Bool.or_eq_true, Bool.and_eq_true, beq_iff_eq] at h
  omega

/-- A bit of MXCSR that an instruction changes is IE, DE or PE, becomes 1, and the instruction is a square root. -/
theorem Effect.mxcsr_changes {i : Instr} {s t : State} (h : Effect i s t) {k : Nat}
    (hk : t.mxcsr.getLsbD k ≠ s.mxcsr.getLsbD k) :
    t.mxcsr.getLsbD k = true ∧ (k = 0 ∨ k = 1 ∨ k = 5) ∧ laneFlags i s ≠ [] := by
  cases h with
  | root hne =>
    simp only [retire_mxcsr, setYmm_mxcsr, setMxcsr_mxcsr, BitVec.getLsbD_or] at hk ⊢
    have hbit : (allFlagBits (laneFlags i s)).getLsbD k = true := by
      by_contra hb
      simp [Bool.eq_false_iff.2 hb] at hk
    exact ⟨by simp [hbit], allFlagBits_bits hbit, hne⟩
  | toGpr | toMem | string | setsBit => exact absurd rfl hk

/-- Settles O54, by the effect of each instruction: a square root sets flags of its lanes beside those set before. -/
theorem mxcsrIsSticky : Obligations.MxcsrIsSticky := fun _ _ _ _ h hk => (exec_effect h).mxcsr_changes hk

/-! ## The program counter (10_state.md R22) -/

/-- `nextPc` is addition at the width of the mode. -/
theorem nextPc_toNat (s : State) (len : Nat) :
    (nextPc s len).toNat =
      (s.pc.toNat + len) % (if in64 s then 2 ^ 64 else if default32 s then 2 ^ 32 else 2 ^ 16) := by
  unfold nextPc
  split
  · simp
  · split <;> simp only [BitVec.toNat_setWidth, BitVec.toNat_add, BitVec.toNat_ofNat] <;> omega

/-- `nextPc` depends on `pc`, the mode and CS alone. -/
theorem nextPc_congr {s t : State} (hpc : t.pc = s.pc) (hmode : mode t = mode s) (hcs : t.cs = s.cs) (len : Nat) :
    nextPc t len = nextPc s len := by
  unfold nextPc default32 realOrV86 in64
  rw [hpc, hmode, hcs]

/-- Every completed instruction ends with `pc` advanced by its length. -/
theorem Effect.pc_eq {i : Instr} {s t : State} (h : Effect i s t) : t.pc = nextPc s (instrLen i) := by
  cases h with
  | setsBit b hb =>
    have hvm : b ≠ 17 := by
      have := writesFlagBit_bits hb
      omega
    exact nextPc_congr (s := s) (t := setFlag b s) rfl (setFlag_mode b s hvm) rfl _
  | toGpr | toMem | string | root => rfl

/-- Settles O55: every effect ends in `retire`, whose `nextPc` is addition at the width of the mode. -/
theorem pcAdvancesByLength : Obligations.PcAdvancesByLength := fun i s _ h => by
  rw [(exec_effect h).pc_eq, nextPc_toNat]

/-! ## Constants and mode (10_state.md R45, R37) -/

/-- No instruction writes a control register, a segment register, a table register, CPL or a parameter of the run. -/
theorem Effect.sameConstants {i : Instr} {s t : State} (h : Effect i s t) : sameConstants s t := by
  cases h <;> simp [Machine.sameConstants, writeGpr]

/-- No instruction writes EFLAGS.VM. -/
theorem Effect.flagVM_eq {i : Instr} {s t : State} (h : Effect i s t) : flagVM t = flagVM s := by
  by_contra hne
  have := writesFlagBit_bits (h.eflags_changes (k := 17) hne).2
  omega

/-- The mode is a function of the constants and of EFLAGS.VM. -/
theorem mode_congr {s t : State} (h : sameConstants s t) (hv : flagVM t = flagVM s) : mode t = mode s := by
  obtain ⟨hcr0, -, -, -, -, hefer, hcs, -, -, -, -, -, -, -, -, -, -, -, -, hfeat, -⟩ := h
  unfold mode eferLMA cr0PE
  rw [hcr0, hefer, hcs, hfeat, hv]

/-- A step that answers has the effect of one instruction on the state after the boundary. -/
theorem step_effect {s t : State} (h : step s = .next t) :
    ∃ i, fetchInstr (passBoundary s) = .next i ∧ Effect i (passBoundary s) t := by
  obtain ⟨-, -, -, i, hf, hi⟩ := step_eq_next.1 h
  exact ⟨i, hf, exec_effect hi⟩

/-- Settles O52: no effect writes a constant or VM, which give the mode, and the boundary changes neither. -/
theorem stepKeepsConstants : Obligations.StepKeepsConstants := by
  intro s t h
  obtain ⟨i, -, he⟩ := step_effect h
  have hc : sameConstants s t := he.sameConstants
  exact ⟨hc, mode_congr hc he.flagVM_eq⟩

/-! ## The invariant -/

/-- A mask sees no change at bits that it does not hold. -/
theorem and_eq_of_changes {w : Nat} {u v m : BitVec w}
    (h : ∀ k, u.getLsbD k ≠ v.getLsbD k → m.getLsbD k = false) : u &&& m = v &&& m := by
  refine BitVec.eq_of_getLsbD_eq fun k _ => ?_
  rw [BitVec.getLsbD_and, BitVec.getLsbD_and]
  by_cases hk : u.getLsbD k = v.getLsbD k
  · rw [hk]
  · simp [h k hk]

/-- A field sees no change at bits below it. -/
theorem extractLsb'_eq_of_changes {w start len : Nat} {u v : BitVec w}
    (h : ∀ k, u.getLsbD k ≠ v.getLsbD k → k < start) : u.extractLsb' start len = v.extractLsb' start len := by
  refine BitVec.eq_of_getLsbD_eq fun k _ => ?_
  rw [BitVec.getLsbD_extractLsb', BitVec.getLsbD_extractLsb']
  have : u.getLsbD (start + k) = v.getLsbD (start + k) := by
    by_contra hk
    exact absurd (h _ hk) (by omega)
  rw [this]

/-- The reserved bits of EFLAGS are as before: no instruction writes them (10_state.md R23). -/
theorem Effect.eflagsReserved_eq {i : Instr} {s t : State} (h : Effect i s t) :
    eflagsReserved t.eflags = eflagsReserved s.eflags := by
  have hm : t.eflags &&& 0xFFC0802A#32 = s.eflags &&& 0xFFC0802A#32 := and_eq_of_changes fun k hk => by
    obtain rfl | rfl | rfl | rfl := writesFlagBit_bits (h.eflags_changes hk).2 <;> rfl
  rw [eflagsReserved, eflagsReserved, hm]

/-- The reserved bits of MXCSR are as before: no instruction writes them (10_state.md R32). -/
theorem Effect.mxcsrReserved_eq {i : Instr} {s t : State} (h : Effect i s t) :
    t.mxcsr.extractLsb' 16 16 = s.mxcsr.extractLsb' 16 16 := extractLsb'_eq_of_changes fun k hk => by
  obtain ⟨-, hbit, -⟩ := h.mxcsr_changes hk
  omega

/-- Every instruction keeps the canonical form of the store. -/
theorem Effect.mem_wf {i : Instr} {s t : State} (h : Effect i s t) (hwf : Memory.wf s.mem = true) :
    Memory.wf t.mem = true := by
  cases h with
  | toMem l => exact memWriteAll_wf l hwf
  | string l => exact memWriteAll_wf l hwf
  | toGpr | root | setsBit => exact hwf

/-- What the invariant says, part by part. -/
theorem inv_eq_true {s : State} :
    inv s = true ↔ Memory.wf s.mem = true ∧ eflagsReserved s.eflags = true ∧ s.mxcsr.extractLsb' 16 16 = 0 ∧
      s.cr0.extractLsb' 32 32 = 0 := by
  simp only [inv, Bool.and_eq_true, beq_iff_eq, and_assoc]

/-- Every completed instruction keeps the invariant. -/
theorem Effect.inv {i : Instr} {s t : State} (h : Effect i s t) (hs : inv s = true) : inv t = true := by
  obtain ⟨hmem, hfl, hmx, hcr0⟩ := inv_eq_true.1 hs
  have hc : t.cr0 = s.cr0 := h.sameConstants.1
  exact inv_eq_true.2 ⟨h.mem_wf hmem, h.eflagsReserved_eq.trans hfl, h.mxcsrReserved_eq.trans hmx, hc ▸ hcr0⟩

/-- The boundary touches nothing that the invariant speaks of. -/
theorem passBoundary_inv (s : State) : inv (passBoundary s) = inv s := rfl

/-- Settles O51: the boundary keeps the invariant, and so does the effect of the instruction. -/
theorem stepKeepsInv : Obligations.StepKeepsInv := by
  intro s t hs h
  obtain ⟨i, -, he⟩ := step_effect h
  exact he.inv ((passBoundary_inv s).trans hs)

/-- Settles O50: the reset store lists nothing, and the reset values have their reserved bits (10_state.md R43). -/
theorem invAtReset : Obligations.InvAtReset := inv_eq_true.2 ⟨rfl, by decide, by decide, by decide⟩

end Sys2Proof.Machine
end

section
/-! PROOFS. Outside 64-bit mode: the decoder never answers SMSW r64, and no write reaches the upper state. -/

namespace Sys2Proof

/-! ## What the decoder answers outside 64-bit mode (30_encoding.md R88, R94) -/

/-- SMSW r64 needs 64-bit mode, as its operand size does; the other rows are left to their own meaning. -/
def Instr.modeAllows (c : CodeCtx) : Instr → Prop
  | .smswR64M16 _ _ => c.m64 = true
  | _ => True

/-- The decoder's answer, if it is an instruction, is one that the mode allows. -/
def DecodeResult.modeAllows (c : CodeCtx) : DecodeResult → Prop
  | .ok i _ => i.modeAllows c
  | _ => True

/-- The row of SMSW is chosen by the operand size, which is 64 bits in 64-bit mode only. -/
theorem smswRow_modeAllows (c : CodeCtx) (p : Pfx) (rm : RM) : (smswRow c p rm).modeAllows c := by
  unfold smswRow
  cases h : operandSize c p.opsz p.w with
  | o64 => exact Machine.m64_of_operandSize h
  | o16 | o32 => trivial

/-- No row of STOS is SMSW r64; neither is one of the square roots below. -/
theorem stosRow_modeAllows (c : CodeCtx) (p : Pfx) : (stosRow c p).modeAllows c := by
  unfold stosRow
  split <;> trivial

theorem sqrtRow_modeAllows (c : CodeCtx) (rep : Option Rep) (p : Pfx) (reg : BitVec 3) (rm : RM) :
    (sqrtRow rep p reg rm).modeAllows c := by
  unfold sqrtRow
  repeat' split
  all_goals trivial

theorem vexSqrtRow_modeAllows (c : CodeCtx) (v : Vex) (pp : BitVec 2) (reg : BitVec 3) (rm : RM) :
    (vexSqrtRow v pp reg rm).modeAllows c := by
  unfold vexSqrtRow
  repeat' split
  all_goals trivial

/-- The rows of 0F `op`, of which 0F 01 is SMSW. -/
theorem twoByteRow_modeAllows (c : CodeCtx) (rep : Option Rep) (p : Pfx) (op : Byte) (reg : BitVec 3) (rm : RM)
    (rest : List Byte) : (twoByteRow c rep p op reg rm rest).modeAllows c := by
  unfold twoByteRow
  split
  · exact sqrtRow_modeAllows c rep p reg rm
  · split
    · trivial
    · split
      · exact smswRow_modeAllows c p rm
      · cases rm <;> trivial

/-- A form with a ModR/M byte answers what its conditions answer or what its row does. -/
theorem withModRM_modeAllows {c : CodeCtx} {a : AddrSize} {stop : ModRM → Option DecodeResult}
    {row : BitVec 3 → RM → List Byte → DecodeResult} {bs : List Byte}
    (hstop : ∀ f r, stop f = some r → r.modeAllows c) (hrow : ∀ reg rm rest, (row reg rm rest).modeAllows c) :
    (withModRM a stop row bs).modeAllows c := by
  cases bs with
  | nil => trivial
  | cons b bs =>
    simp only [withModRM]
    cases hs : stop (modRMOfByte b) with
    | some r => exact hstop _ _ hs
    | none =>
      cases takeRM a (modRMOfByte b) bs with
      | none => trivial
      | some x => exact hrow _ _ _

/-- What stops a form before its operand is read is never an instruction; the same for VEX AE below. -/
theorem twoByteStop_modeAllows {c : CodeCtx} {rep : Option Rep} {p : Pfx} {op : Byte} {f : ModRM} {r : DecodeResult}
    (h : twoByteStop rep p op f = some r) : r.modeAllows c := by
  unfold twoByteStop at h
  repeat' split at h
  all_goals cases h
  all_goals trivial

theorem vexStoreStop_modeAllows {c : CodeCtx} {v : Vex} {pp : BitVec 2} {f : ModRM} {r : DecodeResult}
    (h : vexStoreStop v pp f = some r) : r.modeAllows c := by
  unfold vexStoreStop at h
  repeat' split at h
  all_goals cases h
  all_goals trivial

/-! The layers of the decoder, innermost first. -/

theorem decodeTwoByte_modeAllows (c : CodeCtx) (rep : Option Rep) (p : Pfx) (bs : List Byte) :
    (decodeTwoByte c rep p bs).modeAllows c := by
  cases bs with
  | nil => trivial
  | cons op bs =>
    simp only [decodeTwoByte]
    split
    · trivial
    · split
      · exact withModRM_modeAllows (fun _ _ => twoByteStop_modeAllows) (twoByteRow_modeAllows c rep p op)
      · trivial

theorem decodeOpcode_modeAllows (c : CodeCtx) (s : Scan) (rex : Option Rex) (op : Byte) (bs : List Byte) :
    (decodeOpcode c s rex op bs).modeAllows c := by
  unfold decodeOpcode
  dsimp only
  split
  · exact decodeTwoByte_modeAllows c _ _ _
  · split
    · repeat' split
      all_goals trivial
    · split
      · split
        · trivial
        · split
          · trivial
          · exact stosRow_modeAllows c _
      · trivial

theorem decodeVexOpcode_modeAllows (c : CodeCtx) (v : Vex) (pp : BitVec 2) (bs : List Byte) :
    (decodeVexOpcode c v pp bs).modeAllows c := by
  cases bs with
  | nil => trivial
  | cons op bs =>
    simp only [decodeVexOpcode]
    split
    · split
      · trivial
      · refine withModRM_modeAllows (fun _ _ h => ?_) fun reg rm _ => vexSqrtRow_modeAllows c v pp reg rm
        cases h
    · split
      · refine withModRM_modeAllows (fun _ _ => vexStoreStop_modeAllows) fun _ rm _ => ?_
        cases rm <;> trivial
      · trivial

theorem decodeVex_modeAllows (c : CodeCtx) (s : Scan) (three : Bool) (bs : List Byte) :
    (decodeVex c s three bs).modeAllows c := by
  unfold decodeVex
  split
  · trivial
  · split
    · unfold decodeVex3
      split
      · split
        · trivial
        · exact decodeVexOpcode_modeAllows c _ _ _
      · trivial
    · unfold decodeVex2
      split
      · trivial
      · exact decodeVexOpcode_modeAllows c _ _ _

theorem decodeAfterRex_modeAllows (c : CodeCtx) (s : Scan) (rex : Rex) (bs : List Byte) :
    (decodeAfterRex c s rex bs).modeAllows c := by
  cases bs with
  | nil => trivial
  | cons b bs =>
    simp only [decodeAfterRex]
    split
    · trivial
    · split
      · trivial
      · exact decodeOpcode_modeAllows c s _ b bs

theorem decodeAfterPrefixes_modeAllows (c : CodeCtx) (s : Scan) (bs : List Byte) :
    (decodeAfterPrefixes c s bs).modeAllows c := by
  cases bs with
  | nil => trivial
  | cons b bs =>
    simp only [decodeAfterPrefixes]
    split
    · exact decodeAfterRex_modeAllows c s _ bs
    · split
      · split
        · exact decodeVex_modeAllows c s _ bs
        · cases bs with
          | nil => trivial
          | cons b1 bs =>
            dsimp only
            split
            · exact decodeVex_modeAllows c s _ _
            · trivial
      · exact decodeOpcode_modeAllows c s none b bs

/-- The decoder answers SMSW r64 in 64-bit mode only. -/
theorem decode_modeAllows (c : CodeCtx) (bs : List Byte) : (decode c bs).modeAllows c := by
  unfold decode
  cases scanPrefixes Scan.empty bs with
  | done s rest => exact decodeAfterPrefixes_modeAllows c s rest
  | repeated | truncated => trivial

end Sys2Proof

namespace Sys2Proof.Machine

/-- SMSW r64 is fetched in 64-bit mode only. -/
theorem in64_of_fetchInstr_smswR64M16 {s : State} {p : Pfx} {rm : RM} (h : fetchInstr s = .next (.smswR64M16 p rm)) :
    in64 s = true := by
  obtain ⟨rest, hd⟩ := fetchInstr_eq_next h
  have ha := decode_modeAllows (codeCtx s) (codeBytes s)
  rw [hd] at ha
  exact ha

/-! ## Writes outside 64-bit mode (10_state.md R17, R19, R38) -/

/-- The upper state of the legacy modes: bits 63:32 of every general register, and registers 8 to 15. -/
def keepsUpperState (s t : State) : Prop :=
  ∀ j : BitVec 4, (readX t j).extractLsb' 32 32 = (readX s j).extractLsb' 32 32 ∧
    (8 ≤ j.toNat → readX t j = readX s j ∧ readYmm t j = readYmm s j)

/-- Outside 64-bit mode a register number has three bits (30_encoding.md R82). -/
theorem regNum_lt {s : State} (h : in64 s = false) (ext : Bool) (n : BitVec 3) : (regNum s ext n).toNat < 8 := by
  have : regNum s ext n = 0#1 ++ n := by simp [regNum, h]
  rw [this, BitVec.toNat_append]
  simpa using n.isLt

/-- Outside 64-bit mode a write of 16 or 32 bits keeps bits 63:32 (10_state.md R19). -/
theorem mergeGpr_upper {size : OpSize} (h : size ≠ .o64) (old v : BitVec 64) :
    (mergeGpr false size old v).extractLsb' 32 32 = old.extractLsb' 32 32 := by
  cases size with
  | o16 =>
    refine (BitVec.extractLsb'_append_eq_of_le (by decide)).trans (BitVec.eq_of_getLsbD_eq fun k hk => ?_)
    have hin : 16 + k < 48 := by omega
    simp [BitVec.getLsbD_extractLsb', hin, ← Nat.add_assoc]
  | o32 => exact BitVec.extractLsb'_append_eq_left
  | o64 => exact absurd rfl h

/-- Outside 64-bit mode a write to one of the first eight general registers keeps the upper state. -/
theorem writeGpr_keepsUpperState {s : State} {dst : BitVec 4} {size : OpSize} (h64 : in64 s = false)
    (hdst : dst.toNat < 8) (hsize : size ≠ .o64) (v : BitVec 64) : keepsUpperState s (writeGpr s dst size v) := by
  intro j
  rw [writeGpr, readX_setX, h64]
  split
  next hj =>
    subst hj
    exact ⟨mergeGpr_upper hsize _ _, fun hge => absurd hge (by omega)⟩
  next => exact ⟨rfl, fun _ => ⟨rfl, rfl⟩⟩

/-- A write to one of the first eight vector registers keeps the upper state. -/
theorem setYmm_keepsUpperState {s : State} {dst : BitVec 4} (hdst : dst.toNat < 8) (v : BitVec 256) :
    keepsUpperState s (setYmm s dst v) := by
  refine fun j => ⟨rfl, fun hge => ⟨rfl, ?_⟩⟩
  rw [readYmm_setYmm, if_neg]
  rintro rfl
  omega

/-- Outside 64-bit mode every instruction that the mode allows keeps the upper state. -/
theorem Effect.keepsUpperState {i : Instr} {s t : State} (h : Effect i s t) (h64 : in64 s = false)
    (hi : ∀ p rm, i ≠ .smswR64M16 p rm) : keepsUpperState s t := by
  cases h with
  | toGpr draws ext n size v hsize =>
    have hne : size ≠ .o64 := fun e => by
      obtain hin | ⟨p, rm, hsm⟩ := hsize e
      · exact absurd hin (by simp [h64])
      · exact hi p rm hsm
    exact writeGpr_keepsUpperState (s := { s with freeIdx := draws }) h64 (regNum_lt h64 ext n) hne v
  | string l size v hsize =>
    have hne : size ≠ .o64 := fun e => absurd (hsize e) (by simp [h64])
    exact writeGpr_keepsUpperState (s := setMem s _) h64 (by decide) hne v
  | root hne ext n v =>
    exact setYmm_keepsUpperState (s := setMxcsr s _) (regNum_lt h64 ext n) v
  | toMem | setsBit => exact fun _ => ⟨rfl, fun _ => ⟨rfl, rfl⟩⟩

/-- Settles O56: outside 64-bit mode the fetch never answers SMSW r64, and no other effect reaches the upper state. -/
theorem legacyModesKeepUpperState : Obligations.LegacyModesKeepUpperState := by
  intro s t h64 h
  obtain ⟨i, hf, he⟩ := step_effect h
  have hi : ∀ p rm, i ≠ .smswR64M16 p rm := by
    rintro p rm rfl
    exact absurd (in64_of_fetchInstr_smswR64M16 hf) (by simp [h64])
  exact he.keepsUpperState h64 hi

end Sys2Proof.Machine
end

section
/-! PROOFS. Bytes just written, and the machine directly after reset (10_state.md R43, R44). -/

namespace Sys2Proof.Machine

/-! ## Bytes just written -/

/-- Bytes written in order stand at their addresses; at an address that stands twice, the later byte does. -/
theorem memRead_memWriteAll_zip {m : List Host.Cell} (hwf : Memory.wf m = true) {ps : List Nat} {bytes : List Byte}
    {k p : Nat} {b : Byte} (hp : ps[k]? = some p) (hb : bytes[k]? = some b)
    (hlast : ∀ j, k < j → ps[j]? ≠ some p) : memRead (memWriteAll m (ps.zip bytes)) p = b := by
  induction ps generalizing m bytes k with
  | nil => simp at hp
  | cons q ps ih =>
    cases bytes with
    | nil => simp at hb
    | cons c bytes =>
      have hwf' := memWrite_wf q c hwf
      cases k with
      | zero =>
        obtain rfl : q = p := by simpa using hp
        obtain rfl : c = b := by simpa using hb
        have hq : q ∉ ps := fun hmem => by
          obtain ⟨j, hj⟩ := List.mem_iff_getElem?.1 hmem
          exact hlast (j + 1) (by omega) (by simpa using hj)
        have hz : q ∉ (ps.zip bytes).map Prod.fst := fun hmem => by
          obtain ⟨x, hx, rfl⟩ := List.mem_map.1 hmem
          exact hq (List.of_mem_zip hx).1
        rw [List.zip_cons_cons, memWriteAll, memRead_memWriteAll_of_notMem hwf' hz, memRead_memWrite q q c hwf,
          if_pos rfl]
      | succ k =>
        refine ih hwf' (by simpa using hp) (by simpa using hb) fun j hj => ?_
        simpa using hlast (j + 1) (by omega)

/-- A state whose store has just had `bytes` written at `ps` holds them there. -/
theorem holdsAt_of_mem_eq {m : List Host.Cell} {t : State} {ps : List Nat} {bytes : List Byte}
    (hwf : Memory.wf m = true) (hlen : ps.length = bytes.length) (ht : t.mem = memWriteAll m (ps.zip bytes)) :
    holdsAt t ps bytes :=
  ⟨hlen, fun _ _ _ hp hb hlast => ht ▸ memRead_memWriteAll_zip hwf hp hb hlast⟩

/-- An operand of `n` bytes has `n` physical addresses. -/
@[simp] theorem operandPhys_length (s : State) (name : SegName) (off : BitVec 64) (n : Nat) :
    (operandPhys s name off n).length = n := by
  simp [operandPhys, operandAddrs, byteAddrs]

/-! ## The reset table (10_state.md R43) -/

/-- Every general register is 0 after reset. -/
theorem readX_reset (j : BitVec 4) : readX State.reset j = 0 := by
  simp [readX, State.reset, Vector.get_eq_getElem]

/-- Every vector register is 0 after reset. -/
theorem readYmm_reset (j : BitVec 4) : readYmm State.reset j = 0 := by
  simp [readYmm, State.reset, Vector.get_eq_getElem]

/-- The segment registers other than CS after reset: selector 0, base 0, limit FFFFH. -/
theorem segReg_reset {g : SegName} (hg : g ≠ .cs) : segReg State.reset g = Seg.atReset := by
  cases g with
  | cs => exact absurd rfl hg
  | es | ss | ds | fs | gs => rfl

/-- Settles O59, row by row of the table: the constants by evaluation, the registers by their lemmas. -/
theorem resetTable : Obligations.ResetTable := by
  refine ⟨rfl, rfl, rfl, rfl, rfl, rfl, rfl, rfl, rfl, rfl, rfl, rfl, rfl, ?segments, ?low, ?upper, rfl, rfl, rfl, rfl,
    rfl, rfl, rfl, rfl, rfl, readYmm_reset, rfl, rfl, rfl, rfl⟩
  case segments =>
    intro g hg
    rw [segReg_reset (by rintro rfl; simp at hg)]
    exact ⟨rfl, rfl, rfl⟩
  case low =>
    intro j _ _
    rw [readX_reset]
    rfl
  case upper => exact fun j _ => readX_reset j

/-! ## The first instruction after reset (10_state.md R44) -/

/-- After reset CR4.OSFXSR = 0, so that no legacy SSE form is available, with or without LOCK. -/
theorem legacySseCheck_reset (lock has : Bool) : legacySseCheck State.reset lock has = some .ud := by
  cases lock <;> rfl

/-- No VEX form is available in real-address mode. -/
theorem vexCheck_reset (reserved : Bool) : vexCheck State.reset reserved = some .ud := rfl

/-- The answer #UD directly after reset. -/
def udAtReset : Host.Outcome State Fault Refusal := .fault (.exception .ud none (faulted State.reset))

/-- STR is not recognised in real-address mode, with or without LOCK (45_str.md R178). -/
theorem execStr_reset (p : Pfx) (rm : RM) : execStr p rm State.reset = udAtReset := by
  unfold execStr
  split
  · rfl
  · rw [if_pos (show realOrV86 State.reset = true from rfl)]
    rfl

/-- The legacy square roots raise #UD directly after reset. -/
theorem legacySqrt_reset {w len : Nat} {has : Bool} {rule : AccessRule} {p : Pfx} {reg : BitVec 3} {rm : RM}
    {f : BitVec w → BitVec 2 → Bool → BitVec w × List FpFlags} :
    legacySqrt w len has rule p reg rm f State.reset = udAtReset := by
  rw [legacySqrt, legacySseCheck_reset]
  rfl

/-- The packed VEX square roots raise #UD directly after reset. -/
theorem vexPackedSqrt_reset {w len : Nat} {v : Vex} {reg : BitVec 3} {rm : RM}
    {f : BitVec w → BitVec 2 → Bool → BitVec w × List FpFlags} :
    vexPackedSqrt w len v reg rm f State.reset = udAtReset := by
  rw [vexPackedSqrt, vexCheck_reset]
  rfl

/-- The scalar VEX square roots raise #UD directly after reset. -/
theorem vexScalarSqrt_reset {w len : Nat} {v : Vex} {reg : BitVec 3} {rm : RM}
    {f : BitVec w → BitVec 2 → Bool → BitVec w × List FpFlags} :
    vexScalarSqrt w len v reg rm f State.reset = udAtReset := by
  rw [vexScalarSqrt, vexCheck_reset]
  rfl

/-- STMXCSR raises #UD directly after reset. -/
theorem execStmxcsr_reset (p : Pfx) (m : MemForm) : execStmxcsr p m State.reset = udAtReset := by
  rw [execStmxcsr, legacySseCheck_reset]
  rfl

/-- VSTMXCSR raises #UD directly after reset. -/
theorem execVstmxcsr_reset (v : Vex) (m : MemForm) : execVstmxcsr v m State.reset = udAtReset := by
  rw [execVstmxcsr, vexCheck_reset]
  rfl

/-- At every operand size a write to a general register puts the low 16 bits of the value there (10_state.md R19). -/
theorem mergeGpr_low16 (m64 : Bool) (size : OpSize) (old v : BitVec 64) :
    (mergeGpr m64 size old v).extractLsb' 0 16 = v.extractLsb' 0 16 := by
  cases size with
  | o16 => exact BitVec.extractLsb'_append_eq_right.trans (BitVec.setWidth_eq_extractLsb' (by decide))
  | o32 =>
    have hcut : (v.setWidth 32).extractLsb' 0 16 = v.extractLsb' 0 16 := BitVec.extractLsb'_setWidth_of_le (by decide)
    cases m64 with
    | true => exact (BitVec.extractLsb'_setWidth_of_le (by decide)).trans hcut
    | false => exact (BitVec.extractLsb'_append_eq_of_add_le (by decide)).trans hcut
  | o64 => rfl

/-- The same, read from the register written. -/
theorem readX_writeGpr_low16 (s : State) (i : BitVec 4) (size : OpSize) (v : BitVec 64) :
    (readX (writeGpr s i size v) i).extractLsb' 0 16 = v.extractLsb' 0 16 := by
  rw [writeGpr, readX_setX_self, mergeGpr_low16]

/-- SMSW r16 and r32 directly after reset: the low half-word of the register is that of CR0. -/
theorem smsw_reg_reset {p : Pfx} (hl : p.lock = false) (n : BitVec 3) {i : Instr}
    (hi : i ∈ [Instr.smswRm16 p (.reg n), .smswR32M16 p (.reg n)]) :
    ∃ t, exec i State.reset = .next t ∧ (readX t (regNum State.reset p.b n)).extractLsb' 0 16 = 0x0010 := by
  have hlock : ¬ p.lock = true := by simp [hl]
  simp only [List.mem_cons, List.not_mem_nil, or_false] at hi
  obtain rfl | rfl := hi
  · refine ⟨_, ite_raise_eq_next.2 ⟨hlock, rfl⟩, ?_⟩
    exact (readX_writeGpr_low16 ..).trans rfl
  · refine ⟨_, ite_raise_eq_next.2 ⟨hlock, rfl⟩, ?_⟩
    refine (readX_writeGpr_low16 ..).trans ?_
    exact (BitVec.extractLsb'_setWidth_of_le (by decide)).trans BitVec.extractLsb'_append_eq_right

/-- SMSW directly after reset stores the low half-word of CR0 where its operand can be accessed. -/
theorem smsw_mem_reset {p : Pfx} (hl : p.lock = false) (m : MemForm) {i : Instr}
    (hi : i ∈ [Instr.smswRm16 p (.mem m), .smswR32M16 p (.mem m)])
    (hacc : accessOk State.reset (operandSeg State.reset (addrBitsOfPfx p) m)
      (effAddr State.reset (addrBitsOfPfx p) (instrLen i) m) 2 .write .plain = true) :
    ∃ t, exec i State.reset = .next t ∧
      holdsAt t (operandPhys State.reset (operandSeg State.reset (addrBitsOfPfx p) m)
        (effAddr State.reset (addrBitsOfPfx p) (instrLen i) m) 2) [0x10, 0x00] := by
  have hlock : ¬ p.lock = true := by simp [hl]
  have hexec : exec i State.reset = smswToMem (instrLen i) p m State.reset := by
    simp only [List.mem_cons, List.not_mem_nil, or_false] at hi
    obtain rfl | rfl := hi <;> exact if_neg hlock
  refine ⟨_, hexec.trans (smswToMem_eq_next.2 ⟨hacc, rfl⟩), ?_⟩
  exact holdsAt_of_mem_eq (m := State.reset.mem) rfl (operandPhys_length ..) rfl

/-- STR, STMXCSR, VSTMXCSR and the square roots raise #UD directly after reset. -/
theorem exec_reset_ud (p : Pfx) (v : Vex) (reg : BitVec 3) (rm : RM) (m : MemForm) {i : Instr}
    (hi : i ∈ [Instr.str p rm, .stmxcsr p m, .sqrtpd p reg rm, .sqrtps p reg rm, .sqrtsd p reg rm, .sqrtss p reg rm,
      .vsqrtpdXmm v reg rm, .vsqrtpdYmm v reg rm, .vsqrtpsXmm v reg rm, .vsqrtpsYmm v reg rm, .vsqrtsd v reg rm,
      .vsqrtss v reg rm, .vstmxcsr v m]) : exec i State.reset = udAtReset := by
  simp only [List.mem_cons, List.not_mem_nil, or_false] at hi
  obtain rfl | rfl | rfl | rfl | rfl | rfl | rfl | rfl | rfl | rfl | rfl | rfl | rfl := hi
  · exact execStr_reset p rm
  · exact execStmxcsr_reset p m
  · rw [exec, execSqrtpd, legacySqrt_reset]
  · rw [exec, execSqrtps, legacySqrt_reset]
  · rw [exec, execSqrtsd, legacySqrt_reset]
  · rw [exec, execSqrtss, legacySqrt_reset]
  · rw [exec, execVsqrtpdXmm, vexPackedSqrt_reset]
  · rw [exec, execVsqrtpdYmm, vexPackedSqrt_reset]
  · rw [exec, execVsqrtpsXmm, vexPackedSqrt_reset]
  · rw [exec, execVsqrtpsYmm, vexPackedSqrt_reset]
  · rw [exec, execVsqrtsd, vexScalarSqrt_reset]
  · rw [exec, execVsqrtss, vexScalarSqrt_reset]
  · exact execVstmxcsr_reset v m

/-- The address register of STOS is 0 after reset. -/
theorem addrReg_reset (a : AddrSize) (j : BitVec 4) : addrReg State.reset a j = 0 := by
  rw [addrReg, readX_reset]
  cases a <;> rfl

/-- After reset ES holds the bytes at offset 0, and launch memory is the whole space (10_state.md R43, log 7). -/
theorem accessOk_es_reset {n : Nat} (hn : n ∈ [1, 2, 4]) : accessOk State.reset .es 0 n .write .plain = true := by
  simp only [List.mem_cons, List.not_mem_nil, or_false] at hn
  obtain rfl | rfl | rfl := hn <;> rfl

/-- STOS completes directly after reset. -/
theorem stos_reset {n : Nat} (len : Nat) {p : Pfx} (hl : p.lock = false) (hn : n ∈ [1, 2, 4]) :
    ∃ t, stos n len p State.reset = .next t := by
  have hacc := accessOk_es_reset hn
  rw [← addrReg_reset (addrSize (codeCtx State.reset) p.adsz) 7] at hacc
  exact ⟨_, stos_eq_next.2 ⟨hl, hacc, rfl⟩⟩

/-- STC, STD, STI and STOS complete directly after reset. -/
theorem exec_reset_completes {p : Pfx} (hl : p.lock = false) {i : Instr}
    (hi : i ∈ [Instr.stc p, .std p, .sti p, .stosM8 p, .stosM16 p, .stosM32 p]) :
    ∃ t, exec i State.reset = .next t := by
  have hlock : ¬ p.lock = true := by simp [hl]
  simp only [List.mem_cons, List.not_mem_nil, or_false] at hi
  obtain rfl | rfl | rfl | rfl | rfl | rfl := hi
  · exact ⟨_, ite_raise_eq_next.2 ⟨hlock, rfl⟩⟩
  · exact ⟨_, ite_raise_eq_next.2 ⟨hlock, rfl⟩⟩
  · exact ⟨_, execSti_eq_next.2 ⟨hl, .inl ⟨rfl, rfl⟩⟩⟩
  · exact stos_reset _ hl (by simp)
  · exact stos_reset _ hl (by simp)
  · exact stos_reset _ hl (by simp)

/-- Settles O60, clause by clause: SMSW to a register and to memory, the rows that raise #UD, the rows that complete. -/
theorem resetConsequences : Obligations.ResetConsequences := fun p v reg n rm m =>
  ⟨fun hl _ hi => smsw_reg_reset hl n hi, fun hl _ hi hacc => smsw_mem_reset hl m hi hacc,
    fun _ hi => exec_reset_ud p v reg rm m hi, fun hl _ hi => exec_reset_completes hl hi⟩

end Sys2Proof.Machine
end

section
/-! PROOFS. The bytes of a value, and what a load finds after a store (20_memory.md R49, R50, R64). -/

namespace Sys2Proof.Machine

/-! ## Little-endian bytes -/

/-- The bytes of a value one by one: byte `k` is bits 8k+7 to 8k. -/
theorem leBytes_getElem? {w n k : Nat} (v : BitVec w) (hk : k < n) :
    (leBytes n v)[k]? = some (v.extractLsb' (8 * k) 8) := by
  simp [leBytes, hk]

/-- One more byte stands behind the others. -/
theorem leBytes_succ {w : Nat} (n : Nat) (v : BitVec w) :
    leBytes (n + 1) v = leBytes n v ++ [v.extractLsb' (8 * n) 8] := by
  simp [leBytes, List.range_succ]

/-- A byte behind the others weighs 256 to the power of its place. -/
theorem leNat_append_singleton (bs : List Byte) (b : Byte) :
    leNat (bs ++ [b]) = leNat bs + 2 ^ (8 * bs.length) * b.toNat := by
  induction bs with
  | nil => simp [leNat]
  | cons c bs ih =>
    simp only [List.cons_append, leNat, ih, List.length_cons]
    ring

/-- The `n` bytes of a value stand for its low `8 n` bits. -/
theorem leNat_leBytes {w : Nat} (n : Nat) (v : BitVec w) : leNat (leBytes n v) = v.toNat % 2 ^ (8 * n) := by
  induction n with
  | zero => simp [leBytes, leNat, Nat.mod_one]
  | succ n ih =>
    have hbyte : (v.extractLsb' (8 * n) 8).toNat = v.toNat / 2 ^ (8 * n) % 2 ^ 8 := by
      rw [BitVec.extractLsb'_toNat, Nat.shiftRight_eq_div_pow]
    rw [leBytes_succ, leNat_append_singleton, leBytes_length, ih, hbyte, ← Nat.mod_mul, ← pow_add]
    rfl

/-- Settles O7: the bytes are those of the value's bits, and by induction on their number they stand for the value. -/
theorem littleEndianBytes : Obligations.LittleEndianBytes := fun n v => by
  refine ⟨BitVec.eq_of_toNat_eq ?_, fun k => leBytes_getElem? v⟩
  rw [leValue, leNat_leBytes, Nat.mod_eq_of_lt v.isLt, BitVec.ofNat_toNat, BitVec.setWidth_eq]

/-! ## A load after a store -/

/-- Byte `j` of the operand at `off + k` is byte `k + j` of the operand at `off`: cutting to the width of the mode
between two additions changes nothing. -/
theorem byteAddr_linearAddr_add (s : State) (g : SegName) (off : BitVec 64) (k j : Nat) :
    byteAddr s (linearAddr s g (off + BitVec.ofNat 64 k)) j = byteAddr s (linearAddr s g off) (k + j) := by
  unfold byteAddr linearAddr
  split
  · rw [BitVec.ofNat_add, BitVec.add_assoc, BitVec.add_assoc, BitVec.add_assoc]
  · refine BitVec.eq_of_toNat_eq ?_
    simp only [BitVec.toNat_setWidth, BitVec.toNat_add, BitVec.toNat_ofNat]
    omega

/-- The physical addresses of a part of an operand are that part of the operand's. -/
theorem operandPhys_part (s : State) (g : SegName) (off : BitVec 64) {k n len : Nat} (h : k + n ≤ len) :
    operandPhys s g (off + BitVec.ofNat 64 k) n = ((operandPhys s g off len).drop k).take n := by
  refine List.ext_getElem ?_ fun j hj _ => ?_
  · rw [List.length_take, List.length_drop, operandPhys_length, operandPhys_length]
    omega
  · simp [operandPhys, operandAddrs, byteAddrs, byteAddr_linearAddr_add]

/-- Bytes just written to distinct addresses read back, all of them. -/
theorem map_memRead_memWriteAll_zip {m : List Host.Cell} (hwf : Memory.wf m = true) {ps : List Nat} {bytes : List Byte}
    (hlen : ps.length = bytes.length) (hn : ps.Nodup) : ps.map (memRead (memWriteAll m (ps.zip bytes))) = bytes := by
  refine List.ext_getElem ((List.length_map _).trans hlen) fun k hk hk' => ?_
  rw [List.getElem_map]
  have hmem : (ps[k]'(hlen ▸ hk'), bytes[k]) ∈ ps.zip bytes :=
    List.mem_iff_getElem.2 ⟨k, by simp [hlen, hk'], by simp⟩
  exact memRead_memWriteAll_of_mem hwf (by rwa [List.map_fst_zip (le_of_eq hlen)]) hmem

/-- A store leaves where every operand lies. -/
theorem operandPhys_setMem (s : State) (m : List Host.Cell) (g : SegName) (off : BitVec 64) (n : Nat) :
    operandPhys (setMem s m) g off n = operandPhys s g off n := rfl

/-- Settles O8: the part's addresses are that part of the operand's, and each of those holds its byte. -/
theorem storeThenLoadPart : Obligations.StoreThenLoadPart := by
  intro s t g off bytes rule k n hwf hstore hkn hnodup hload
  obtain ⟨-, rfl⟩ := segWrite_eq_next.1 hstore
  refine segRead_eq_next.2 ⟨hload, ?_⟩
  rw [operandPhys_setMem, operandPhys_part s g off hkn, setMem_mem, List.map_take, List.map_drop,
    map_memRead_memWriteAll_zip hwf (operandPhys_length ..) hnodup]

end Sys2Proof.Machine
end

section
/-! PROOFS. A step as the instruction at the program counter (20_memory.md R69, 60_exceptions.md R194). -/

namespace Sys2Proof.Machine

/-! ## The boundary -/

/-- Where no event is recognised, none is taken. -/
theorem takenEvent_of_recognised_nil {s : State} (h : recognised s = []) : takenEvent s = none := by
  simp [takenEvent, h]

/-- With no input left a boundary changes nothing. -/
theorem passBoundary_of_no_inputs {s : State} (h : s.inputs = []) : passBoundary s = s := by
  have hp : pendingNow s = ⟨false, false, false⟩ := by simp [pendingNow, h]
  obtain ⟨⟩ := s
  subst h
  simp [passBoundary, nmiHeld, smiHeld, carryHeld, hp]

/-- Where no NMI and no SMI is held back, a boundary uses up its own input only. -/
theorem passBoundary_inputs_of_not_held {s : State} (hn : nmiHeld s = false) (hs : smiHeld s = false) :
    (passBoundary s).inputs = s.inputs.tail := by
  simp [passBoundary, carryHeld, hn, hs]

/-! ## The fetch -/

/-- A step at bytes that decode to an instruction runs it in the state after the boundary. -/
theorem step_of_decode {s : State} {i : Instr} {rest : List Byte} (hend : atEnd s = false) (hev : recognised s = [])
    (htf : flagTF s = false) (hdec : decode (codeCtx s) (codeBytes s) = .ok i rest) :
    step s = exec i (passBoundary s) := by
  have hfetch : fetchInstr (passBoundary s) = .next i := by
    rw [fetchInstr, passBoundary_codeCtx, codeBytes_passBoundary, hdec]
  rw [step, nextInstr, takenEvent_of_recognised_nil hev, hend, htf, hfetch]
  rfl

/-- `Translate` answers the physical address where no page fault comes first. -/
theorem translate_eq_next {s : State} {kind : Access} {a : BitVec 64} {p : Nat} :
    translate s kind a = .next p ↔ pageFaults s kind a = false ∧ p = physOf s a := by
  rw [translate_eq]
  cases pageFaults s kind a with
  | false => simpa using eq_comm
  | true => simp

/-- A byte that is fetched is the one that the address of `CS:pc` plus `k` translates to. -/
theorem eq_memRead_of_fetchByte {s : State} {k : Nat} {b : Byte} (h : fetchByte s k = .next b) :
    b = memRead s.mem (physOf s (byteAddr s (linearPc s) k)) := by
  simp only [fetchByte] at h
  split at h
  · cases h
  split at h
  · cases h
  split at h
  · cases h
  obtain ⟨p, hp, hb⟩ := andThen_eq_next.1 h
  obtain ⟨-, rfl⟩ := translate_eq_next.1 hp
  split at hb
  · exact (Host.Outcome.next.inj hb).symm
  · cases hb

/-- Byte `k` of those fetched from byte `from` on is byte `from + k` of the instruction. -/
theorem fetchByte_of_fetchBytes {s : State} {n start k : Nat} {b : Byte} (h : (fetchBytes s n start)[k]? = some b) :
    fetchByte s (start + k) = .next b := by
  induction n generalizing start k with
  | zero => simp [fetchBytes] at h
  | succ n ih =>
    rw [fetchBytes] at h
    cases hf : fetchByte s start with
    | next c =>
      rw [hf] at h
      cases k with
      | zero => simpa [hf] using h
      | succ k => simpa [Nat.add_right_comm, Nat.add_assoc] using ih h
    | fault f => simp [hf] at h
    | refused r => simp [hf] at h

/-- Settles O57: nothing comes before the fetch, which sees through the boundary and reads memory at `CS:pc`. -/
theorem stepRunsDecoded : Obligations.StepRunsDecoded := by
  intro s i rest hend hev htf hdec _
  have hstep := step_of_decode hend hev htf hdec
  refine ⟨hstep, rfl, passBoundary_inputs_of_not_held, fun hin => ?_, fun k b hb => ?_⟩
  · rw [hstep, passBoundary_of_no_inputs hin]
  · have := eq_memRead_of_fetchByte (fetchByte_of_fetchBytes hb)
    rwa [Nat.zero_add] at this

end Sys2Proof.Machine
end

section
/-! PROOFS. The one memory access of an instruction: what its meaning asks first, and what it changes of memory. -/

namespace Sys2Proof.Machine

/-! ## The access comes first (20_memory.md R48, R59) -/

/-- A bind of a bind is one bind. -/
theorem andThen_assoc {α β γ : Type} (o : Host.Outcome α Fault Refusal) (f : α → Host.Outcome β Fault Refusal)
    (g : β → Host.Outcome γ Fault Refusal) : andThen (andThen o f) g = andThen o fun a => andThen (f a) g := by
  cases o <;> rfl

/-- The outcome begins with the checks of the access: what stops them is the outcome. -/
def BeginsWith (s : State) (a : MemAccess) (o : Host.Outcome State Fault Refusal) : Prop :=
  ∃ rest, o = andThen (checkAccess s a.seg a.off a.size a.kind a.rule) rest

/-- The access of an `r/m` operand is that of its memory form. -/
theorem rmAccess_eq_some {s : State} {e : AddrBits} {len size : Nat} {kind : Access} {rule : AccessRule} {rm : RM}
    {a : MemAccess} :
    rmAccess s e len size kind rule rm = some a ↔
      ∃ m, rm = .mem m ∧ a = ⟨operandSeg s e m, effAddr s e len m, size, kind, rule⟩ := by
  cases rm <;> simp [rmAccess, eq_comm]

/-- A store, whatever comes after it, begins with the checks of its bytes. -/
theorem segWrite_beginsWith {s : State} {g : SegName} {off : BitVec 64} {bytes : List Byte} {rule : AccessRule} {n : Nat}
    (hn : bytes.length = n) (f : State → Host.Outcome State Fault Refusal) :
    BeginsWith s ⟨g, off, n, .write, rule⟩ (andThen (segWrite s g off bytes rule) f) := by
  subst hn
  exact ⟨_, andThen_assoc _ _ _⟩

/-- A square root of a memory operand begins with the checks of its read. -/
theorem sqrtBody_beginsWith {w len : Nat} {e : AddrBits} {dst : BitVec 4} {m : MemForm} {rule : AccessRule}
    {f : BitVec w → BitVec 2 → Bool → BitVec w × List FpFlags} {dest : BitVec w → BitVec 256} {s : State} :
    BeginsWith s ⟨operandSeg s e m, effAddr s e len m, w / 8, .read, rule⟩
      (sqrtBody w e len dst (.mem m) rule f dest s) := by
  simp only [sqrtBody, readVec, segRead, andThen_assoc]
  exact ⟨_, rfl⟩

/-- A meaning behind the check of LOCK begins as it does without the check when there is no LOCK. -/
theorem beginsWith_of_unlocked {s : State} {a : MemAccess} {lock : Bool} {o : Host.Outcome State Fault Refusal}
    (hl : (!lock) = true) (h : BeginsWith s a o) : BeginsWith s a (if lock then raise s .ud 0 else o) := by
  rwa [if_neg (by simpa using hl)]

/-- An available legacy square root of a memory operand begins with the checks of its read (41_sqrt.md R140). -/
theorem legacySqrt_beginsWith {w len : Nat} {has : Bool} {rule : AccessRule} {p : Pfx} {reg : BitVec 3} {m : MemForm}
    {f : BitVec w → BitVec 2 → Bool → BitVec w × List FpFlags} {s : State} (h : legacyAvailable s p.lock has = true) :
    BeginsWith s ⟨operandSeg s (addrBitsOfPfx p) m, effAddr s (addrBitsOfPfx p) len m, w / 8, .read, rule⟩
      (legacySqrt w len has rule p reg (.mem m) f s) := by
  rw [legacySqrt, (legacySseCheck_eq_none_iff s p.lock has).2 h]
  exact sqrtBody_beginsWith

/-- The same for a packed VEX square root. -/
theorem vexPackedSqrt_beginsWith {w len : Nat} {v : Vex} {reg : BitVec 3} {m : MemForm}
    {f : BitVec w → BitVec 2 → Bool → BitVec w × List FpFlags} {s : State} (h : vexAvailable s (v.vvvv != 0) = true) :
    BeginsWith s ⟨operandSeg s (addrBitsOfVex v) m, effAddr s (addrBitsOfVex v) len m, w / 8, .read, .plain⟩
      (vexPackedSqrt w len v reg (.mem m) f s) := by
  rw [vexPackedSqrt, (vexCheck_eq_none_iff s _).2 h]
  exact sqrtBody_beginsWith

/-- The same for a scalar VEX square root. -/
theorem vexScalarSqrt_beginsWith {w len : Nat} {v : Vex} {reg : BitVec 3} {m : MemForm}
    {f : BitVec w → BitVec 2 → Bool → BitVec w × List FpFlags} {s : State} (h : vexAvailable s false = true) :
    BeginsWith s ⟨operandSeg s (addrBitsOfVex v) m, effAddr s (addrBitsOfVex v) len m, w / 8, .read, .plain⟩
      (vexScalarSqrt w len v reg (.mem m) f s) := by
  rw [vexScalarSqrt, (vexCheck_eq_none_iff s _).2 h]
  exact sqrtBody_beginsWith

/-- STMXCSR, when available, begins with the checks of its store (43_stmxcsr.md R159). -/
theorem execStmxcsr_beginsWith {p : Pfx} {m : MemForm} {s : State}
    (h : legacyAvailable s p.lock s.features.hasSse = true) :
    BeginsWith s ⟨operandSeg s (addrBitsOfPfx p) m, effAddr s (addrBitsOfPfx p) (instrLen (.stmxcsr p m)) m, 4, .write,
      .mxcsrStore⟩ (execStmxcsr p m s) := by
  rw [execStmxcsr, (legacySseCheck_eq_none_iff s _ _).2 h]
  exact segWrite_beginsWith (leBytes_length 4 _) _

/-- VSTMXCSR, when available, begins with the checks of its store (43_stmxcsr.md R159). -/
theorem execVstmxcsr_beginsWith {v : Vex} {m : MemForm} {s : State} (h : vexAvailable s (v.l || v.vvvv != 0) = true) :
    BeginsWith s ⟨operandSeg s (addrBitsOfVex v) m, effAddr s (addrBitsOfVex v) (instrLen (.vstmxcsr v m)) m, 4, .write,
      .mxcsrStore⟩ (execVstmxcsr v m s) := by
  rw [execVstmxcsr, (vexCheck_eq_none_iff s _).2 h]
  exact segWrite_beginsWith (leBytes_length 4 _) _

/-- STOS without LOCK begins with the checks of its store (44_stos.md R173). -/
theorem stos_beginsWith {n len : Nat} {p : Pfx} {s : State} (hl : (!p.lock) = true) :
    BeginsWith s ⟨.es, addrReg s (addrSize (codeCtx s) p.adsz) 7, n, .write, .plain⟩ (stos n len p s) :=
  beginsWith_of_unlocked hl (segWrite_beginsWith (leBytes_length n _) _)

/-- STR to memory, when available, begins with the checks of its store (45_str.md R180). -/
theorem execStr_beginsWith {p : Pfx} {m : MemForm} {s : State} (h : (!p.lock && !realOrV86 s) = true) :
    BeginsWith s ⟨operandSeg s (addrBitsOfPfx p) m, effAddr s (addrBitsOfPfx p) (instrLen (.str p (.mem m))) m, 2,
      .write, .strStore⟩ (execStr p (.mem m) s) := by
  obtain ⟨hl, hr⟩ := Bool.and_eq_true_iff.1 h
  refine beginsWith_of_unlocked hl ?_
  rw [if_neg (by simpa using hr)]
  exact segWrite_beginsWith (leBytes_length 2 _) _

/-- An available instruction with a memory access begins with the checks of that access. -/
theorem exec_beginsWith {i : Instr} {s : State} {a : MemAccess} (hav : available i s = true)
    (hacc : memAccess i s = some a) : BeginsWith s a (exec i s) := by
  cases i with
  | stc | std | sti => cases hacc
  | smswRm16 | smswR32M16 | smswR64M16 =>
    obtain ⟨m, rfl, rfl⟩ := rmAccess_eq_some.1 hacc
    exact beginsWith_of_unlocked hav (segWrite_beginsWith (leBytes_length 2 _) _)
  | sqrtpd | sqrtps | sqrtsd | sqrtss =>
    obtain ⟨m, rfl, rfl⟩ := rmAccess_eq_some.1 hacc
    exact legacySqrt_beginsWith hav
  | vsqrtpdXmm | vsqrtpdYmm | vsqrtpsXmm | vsqrtpsYmm =>
    obtain ⟨m, rfl, rfl⟩ := rmAccess_eq_some.1 hacc
    exact vexPackedSqrt_beginsWith hav
  | vsqrtsd | vsqrtss =>
    obtain ⟨m, rfl, rfl⟩ := rmAccess_eq_some.1 hacc
    exact vexScalarSqrt_beginsWith hav
  | stmxcsr =>
    obtain rfl := Option.some.inj hacc
    exact execStmxcsr_beginsWith hav
  | vstmxcsr =>
    obtain rfl := Option.some.inj hacc
    exact execVstmxcsr_beginsWith hav
  | stosM8 | stosM16 | stosM32 | stosM64 | stosb | stosw | stosd | stosq =>
    obtain rfl := Option.some.inj hacc
    exact stos_beginsWith hav
  | str =>
    obtain ⟨m, rfl, rfl⟩ := rmAccess_eq_some.1 hacc
    exact execStr_beginsWith hav

/-- An available instruction faults as the checks of its access do. -/
theorem exec_of_checkAccess_raise {i : Instr} {s : State} {a : MemAccess} {e : Exc} (hav : available i s = true)
    (hacc : memAccess i s = some a) (h : checkAccess s a.seg a.off a.size a.kind a.rule = raise s e 0) :
    exec i s = raise s e 0 := by
  obtain ⟨rest, he⟩ := exec_beginsWith hav hacc
  rw [he, h]
  rfl

/-- An available instruction is refused as the checks of its access are. -/
theorem exec_of_checkAccess_refused {i : Instr} {s : State} {a : MemAccess} {r : Refusal} (hav : available i s = true)
    (hacc : memAccess i s = some a) (h : checkAccess s a.seg a.off a.size a.kind a.rule = .refused r) :
    exec i s = .refused r := by
  obtain ⟨rest, he⟩ := exec_beginsWith hav hacc
  rw [he, h]
  rfl

/-! ## What of memory changes (20_memory.md R48, R50, R54) -/

/-- Memory is as before, or the instruction's own access is a store that passed every check and its bytes were written. -/
def StoresOnly (i : Instr) (s t : State) : Prop :=
  t.mem = s.mem ∨ ∃ (a : MemAccess) (bytes : List Byte), memAccess i s = some a ∧ a.kind = .write ∧
    accessOk s a.seg a.off a.size a.kind a.rule = true ∧
    t.mem = memWriteAll s.mem ((operandPhys s a.seg a.off a.size).zip bytes)

/-- SMSW to memory stores at its operand; the stores of MXCSR, STOS and the square roots below. -/
theorem smswToMem_storesOnly {i : Instr} {p : Pfx} {m : MemForm} {s t : State}
    (hacc : memAccess i s = rmAccess s (addrBitsOfPfx p) (instrLen i) 2 .write .plain (.mem m))
    (h : smswToMem (instrLen i) p m s = .next t) : StoresOnly i s t := by
  obtain ⟨hok, rfl⟩ := smswToMem_eq_next.1 h
  exact .inr ⟨_, _, hacc, rfl, hok, rfl⟩

theorem mxcsrToMem_storesOnly {i : Instr} {e : AddrBits} {m : MemForm} {s t : State}
    (hacc : memAccess i s = rmAccess s e (instrLen i) 4 .write .mxcsrStore (.mem m))
    (h : mxcsrToMem (instrLen i) e m s = .next t) : StoresOnly i s t := by
  obtain ⟨hok, rfl⟩ := mxcsrToMem_eq_next.1 h
  exact .inr ⟨_, _, hacc, rfl, hok, rfl⟩

theorem stos_storesOnly {i : Instr} {n : Nat} {p : Pfx} {s t : State} (hacc : memAccess i s = stosAccess s p n)
    (h : stos n (instrLen i) p s = .next t) : StoresOnly i s t := by
  obtain ⟨-, hok, rfl⟩ := stos_eq_next.1 h
  exact .inr ⟨_, _, hacc, rfl, hok, rfl⟩

theorem sqrtBody_storesOnly {i : Instr} {w len : Nat} {e : AddrBits} {dst : BitVec 4} {rm : RM} {rule : AccessRule}
    {f : BitVec w → BitVec 2 → Bool → BitVec w × List FpFlags} {dest : BitVec w → BitVec 256} {s t : State}
    (h : sqrtBody w e len dst rm rule f dest s = .next t) : StoresOnly i s t := by
  obtain ⟨-, -, rfl⟩ := sqrtBody_eq_next.1 h
  exact .inl rfl

/-- STR stores at its operand, or writes a register. -/
theorem execStr_storesOnly {p : Pfx} {rm : RM} {s t : State} (h : execStr p rm s = .next t) :
    StoresOnly (.str p rm) s t := by
  obtain ⟨-, h⟩ := ite_raise_eq_next.1 h
  obtain ⟨-, h⟩ := ite_raise_eq_next.1 h
  cases rm with
  | reg n =>
    obtain rfl := Host.Outcome.next.inj h
    exact .inl rfl
  | mem m =>
    obtain ⟨u, hu, ht⟩ := andThen_eq_next.1 h
    obtain ⟨hok, rfl⟩ := storeMem_eq_next.1 hu
    obtain rfl := Host.Outcome.next.inj ht
    exact .inr ⟨_, _, rfl, rfl, hok, rfl⟩

/-- The register form of SMSW r32 leaves memory. -/
@[simp] theorem smswToReg32_mem (n : BitVec 4) (s : State) : (smswToReg32 n s).mem = s.mem := by
  unfold smswToReg32
  split <;> rfl

/-- An instruction that completes changed memory by the store of its own access, or not at all. -/
theorem exec_storesOnly {i : Instr} {s t : State} (h : exec i s = .next t) : StoresOnly i s t := by
  cases i with
  | smswRm16 p rm | smswR32M16 p rm | smswR64M16 p rm =>
    obtain ⟨-, h⟩ := ite_raise_eq_next.1 h
    cases rm with
    | reg n =>
      obtain rfl := Host.Outcome.next.inj h
      exact .inl (by simp [writeGpr])
    | mem m => exact smswToMem_storesOnly rfl h
  | sqrtpd | sqrtps | sqrtsd | sqrtss => exact sqrtBody_storesOnly (legacySqrt_eq_next.1 h).2
  | vsqrtpdXmm | vsqrtpdYmm | vsqrtpsXmm | vsqrtpsYmm => exact sqrtBody_storesOnly (vexPackedSqrt_eq_next.1 h).2
  | vsqrtsd | vsqrtss => exact sqrtBody_storesOnly (vexScalarSqrt_eq_next.1 h).2
  | stc | std =>
    obtain ⟨-, h⟩ := ite_raise_eq_next.1 h
    obtain rfl := Host.Outcome.next.inj h
    exact .inl rfl
  | sti =>
    obtain ⟨-, ⟨-, rfl⟩ | ⟨-, rfl⟩⟩ := execSti_eq_next.1 h
    · exact .inl rfl
    · exact .inl rfl
  | stmxcsr => exact mxcsrToMem_storesOnly rfl (execStmxcsr_eq_next.1 h).2
  | vstmxcsr => exact mxcsrToMem_storesOnly rfl (execVstmxcsr_eq_next.1 h).2
  | stosM8 | stosM16 | stosM32 | stosM64 | stosb | stosw | stosd | stosq => exact stos_storesOnly rfl h
  | str => exact execStr_storesOnly h

/-- A byte that no store of the instruction reaches reads as before. -/
theorem StoresOnly.memRead_eq {i : Instr} {s t : State} (h : StoresOnly i s t) (hwf : Memory.wf s.mem = true) {q : Nat}
    (hq : ∀ a, memAccess i s = some a → a.kind = .write → accessOk s a.seg a.off a.size a.kind a.rule = true →
      q ∉ operandPhys s a.seg a.off a.size) : memRead t.mem q = memRead s.mem q := by
  obtain hm | ⟨a, bytes, hacc, hk, hok, hm⟩ := h
  · rw [hm]
  · rw [hm]
    refine memRead_memWriteAll_of_notMem hwf fun hin => ?_
    obtain ⟨c, hc, rfl⟩ := List.mem_map.1 hin
    exact hq a hacc hk hok (List.of_mem_zip hc).1

end Sys2Proof.Machine
end

section
/-! PROOFS. The exceptions of an access, in the order of its checks (20_memory.md R59), and the program text (R70). -/

namespace Sys2Proof.Machine

/-! ## What each check stops (20_memory.md R59) -/

/-- A failed SegCheck is the access's exception. -/
theorem checkAccess_of_segCheck_some {s : State} {g : SegName} {off : BitVec 64} {n : Nat} {kind : Access}
    {rule : AccessRule} {e : Exc} (h : segCheck s g off n kind rule = some e) :
    checkAccess s g off n kind rule = raise s e 0 := by
  rw [checkAccess, h]

/-- A byte at a non-canonical address is the access's exception when SegCheck passed (20_memory.md R58). -/
theorem checkAccess_of_not_canonical {s : State} {g : SegName} {off : BitVec 64} {n : Nat} {kind : Access}
    {rule : AccessRule} (hseg : segCheck s g off n kind rule = none) (h64 : in64 s = true)
    (hc : (operandAddrs s g off n).all canonical = false) :
    checkAccess s g off n kind rule = raise s (if g = .ss then .ss else .gp) 0 := by
  have hcan : (in64 s && !(byteAddrs s (linearAddr s g off) n).all canonical) = true := by
    rw [h64, show (byteAddrs s (linearAddr s g off) n).all canonical = false from hc]
    rfl
  simp only [checkAccess, hseg, hcan, if_true]

/-- Past SegCheck and the canonical addresses come the alignment, then the translation and the store's own checks. -/
theorem checkAccess_of_reachable {s : State} {g : SegName} {off : BitVec 64} {n : Nat} {kind : Access}
    {rule : AccessRule} (hseg : segCheck s g off n kind rule = none)
    (hcan : in64 s = true → (operandAddrs s g off n).all canonical = true) :
    checkAccess s g off n kind rule =
      (alignFault s (linearAddr s g off) n rule).elim
        (andThen (translateAll s kind (operandAddrs s g off n)) (storeChecks s kind)) fun e => raise s e 0 := by
  have hpass : (in64 s && !(byteAddrs s (linearAddr s g off) n).all canonical) = false := by
    cases h64 : in64 s with
    | false => rfl
    | true => rw [show (byteAddrs s (linearAddr s g off) n).all canonical = true from hcan h64]; rfl
  simp only [checkAccess, hseg, hpass, Bool.false_eq_true, if_false]
  cases alignFault s (linearAddr s g off) n rule <;> rfl

/-- Past the alignment and every page, a store that meets a text cell is refused (20_memory.md R70). -/
theorem checkAccess_write_of_textCell {s : State} {g : SegName} {off : BitVec 64} {n : Nat} {rule : AccessRule}
    (hseg : segCheck s g off n .write rule = none)
    (hcan : in64 s = true → (operandAddrs s g off n).all canonical = true)
    (halign : alignFault s (linearAddr s g off) n rule = none)
    (hpage : (operandAddrs s g off n).all (fun x => !pageFaults s .write x) = true)
    (htext : (operandPhys s g off n).any (textCell s) = true) :
    checkAccess s g off n .write rule = .refused .storeToText := by
  have htr : translateAll s .write (operandAddrs s g off n) = .next (operandPhys s g off n) :=
    translateAll_eq_next.2 ⟨hpage, rfl⟩
  rw [checkAccess_of_reachable hseg hcan, halign, Option.elim_none, htr, andThen_next, storeChecks, htext]
  rfl

/-- An exception of memory has error code 0, but none in real-address mode (60_exceptions.md R182). -/
theorem raise_of_hasCode {s : State} {e : Exc} (he : excHasCode e = true) :
    (raise s e 0 : Host.Outcome State Fault Refusal) =
      .fault (.exception e (if mode s = .real then none else some 0) (faulted s)) := by
  rw [raise, he]
  by_cases hm : mode s = .real <;> simp [hm]

/-! ## Limit and canonical addresses (20_memory.md R58, R60) -/

/-- Past the limit, outside 64-bit mode, SegCheck fails with #SS through SS and #GP elsewhere. -/
theorem segCheck_of_past_limit {s : State} {g : SegName} {off : BitVec 64} {n : Nat} {kind : Access}
    {rule : AccessRule} (h64 : in64 s = false) (hlim : (segReg s g).limit.toNat < off.toNat + n - 1) :
    segCheck s g off n kind rule = some (if g = .ss then .ss else .gp) := by
  have hl : limitFault s g off n = true := by simp [limitFault, h64, hlim]
  rw [segCheck, hl, if_pos rfl]

/-- In 64-bit mode SegCheck never fails (20_memory.md R60). -/
theorem segCheck_of_in64 {s : State} {g : SegName} {off : BitVec 64} {n : Nat} {kind : Access} {rule : AccessRule}
    (h64 : in64 s = true) : segCheck s g off n kind rule = none := by
  have hm : mode s = .mode64 := by simpa [in64] using h64
  exact segCheck_eq_none.2 ⟨by simp [limitFault, h64], by simp [rightsFault, hm]⟩

/-- In 64-bit mode byte `k` of an operand lies `k` past its linear address. -/
theorem mem_operandAddrs_of_in64 {s : State} {g : SegName} {off : BitVec 64} {n k : Nat} (h64 : in64 s = true)
    (hk : k < n) : linearAddr s g off + BitVec.ofNat 64 k ∈ operandAddrs s g off n :=
  List.mem_map.2 ⟨k, List.mem_range.2 hk, by rw [byteAddr, if_pos h64]⟩

/-- Settles O40: the limit stops SegCheck, the canonical address stops the access behind it. -/
theorem unreachableOperand : Obligations.UnreachableOperand := by
  intro i s a hav hacc h
  have hcode : excHasCode (if a.seg = .ss then .ss else .gp) = true := by split <;> rfl
  rw [← raise_of_hasCode hcode]
  refine exec_of_checkAccess_raise hav hacc ?_
  obtain ⟨h64, hlim⟩ | ⟨h64, k, hk, hc⟩ := h
  · exact checkAccess_of_segCheck_some (segCheck_of_past_limit h64 hlim)
  · refine checkAccess_of_not_canonical (segCheck_of_in64 h64) h64 (List.all_eq_false.2 ⟨_, ?_, by simpa using hc⟩)
    exact mem_operandAddrs_of_in64 h64 hk

/-! ## Rights (20_memory.md R60) -/

/-- The segments and the instructions for which a NULL selector is a fault. -/
theorem nullFaults_eq_true {g : SegName} {rule : AccessRule} :
    nullFaults g rule = true ↔ g ∈ [.ds, .es, .fs, .gs] ∨ rule = .strStore ∨ rule = .mxcsrStore := by
  simp [nullFaults, or_assoc]

/-- STR, STMXCSR and VSTMXCSR store under rules of their own (45_str.md R180, 43_stmxcsr.md R159). -/
theorem rule_of_memAccess_store {i : Instr} {s : State} {a : MemAccess} (hacc : memAccess i s = some a)
    (hi : (∃ p rm, i = .str p rm) ∨ (∃ p m, i = .stmxcsr p m) ∨ ∃ v m, i = .vstmxcsr v m) :
    a.rule = .strStore ∨ a.rule = .mxcsrStore := by
  obtain ⟨p, rm, rfl⟩ | ⟨p, m, rfl⟩ | ⟨v, m, rfl⟩ := hi
  · obtain ⟨m, -, rfl⟩ := rmAccess_eq_some.1 hacc
    exact .inl rfl
  · obtain rfl := Option.some.inj hacc
    exact .inr rfl
  · obtain rfl := Option.some.inj hacc
    exact .inr rfl

/-- Within the limit, a failure of the rights is the exception of SegCheck. -/
theorem segCheck_of_rights {s : State} {g : SegName} {off : BitVec 64} {n : Nat} {kind : Access} {rule : AccessRule}
    (hlim : off.toNat + n - 1 ≤ (segReg s g).limit.toNat) (h : rightsFault s g kind rule = true) :
    segCheck s g off n kind rule = some (rightsExc s g kind rule) := by
  have hl : limitFault s g off n = false := by simpa [limitFault] using fun _ => hlim
  simp [segCheck, hl, h]

/-- The label of a failure of the rights through SS: the instruction's own, but for the square roots (log 40). -/
def ssRightsLabel (i : Instr) (e : Exc) : Prop :=
  match i with
  | .stmxcsr _ _ => e = .ss
  | .vstmxcsr _ _ => e = .ss
  | .smswRm16 _ _ => e = .gp
  | .smswR32M16 _ _ => e = .gp
  | .smswR64M16 _ _ => e = .gp
  | .str _ _ => e = .gp
  | _ => e = .gp ∨ e = .ss

/-- A failure of the rights through SS has the label that the instruction's own list gives it. -/
theorem rightsExc_ss_label {i : Instr} {s : State} {a : MemAccess} (hacc : memAccess i s = some a) (hss : a.seg = .ss) :
    ssRightsLabel i (rightsExc s a.seg a.kind a.rule) := by
  cases i with
  | stmxcsr | vstmxcsr =>
    obtain rfl := Option.some.inj hacc
    rw [hss]
    exact rightsExc_ss_mxcsrStore s .write
  | smswRm16 | smswR32M16 | smswR64M16 | str =>
    obtain ⟨m, -, rfl⟩ := rmAccess_eq_some.1 hacc
    exact rightsExc_write nofun
  | _ => exact rightsExc_gp_or_ss s a.seg a.kind a.rule

/-- Settles O41: the rights fail SegCheck, which the limit does not, and the label is `rightsExc`. -/
theorem segmentRightsFault : Obligations.SegmentRightsFault := by
  intro i s a hav hacc hmode hlim h
  have hright : rightsFault s a.seg a.kind a.rule = true := by
    have hm : (mode s == .prot || mode s == .compat) = true := by simpa using hmode
    rw [rightsFault, hm, Bool.true_and, Bool.or_eq_true, Bool.or_eq_true]
    obtain ⟨hk, hw⟩ | ⟨hk, hr⟩ | ⟨hnull, hn⟩ := h
    · exact .inl (.inl (by simp [hk, hw]))
    · exact .inl (.inr (by simp [hk, hr]))
    · have hnf := nullFaults_eq_true.2 (hn.imp_right (rule_of_memAccess_store hacc))
      exact .inr (by rw [hnf, hnull]; rfl)
  have hcode : excHasCode (rightsExc s a.seg a.kind a.rule) = true := by
    obtain he | he := rightsExc_gp_or_ss s a.seg a.kind a.rule
    · rw [he]; rfl
    · rw [he]; rfl
  have hreal : mode s ≠ .real := by
    intro hr
    simp [hr] at hmode
  refine ⟨rightsExc s a.seg a.kind a.rule, ?_, ?_⟩
  · rw [exec_of_checkAccess_raise hav hacc (checkAccess_of_segCheck_some (segCheck_of_rights hlim hright)),
      raise_of_hasCode hcode, if_neg hreal]
  · split
    next hss => exact rightsExc_ss_label hacc hss
    next hss => exact rightsExc_of_ne_ss hss

/-! ## Alignment (20_memory.md R52, R53) -/

/-- The 16-byte rule is that of accesses of 16 bytes. -/
theorem size_of_memAccess_packed16 {i : Instr} {s : State} {a : MemAccess} (hacc : memAccess i s = some a)
    (hr : a.rule = .packed16) : a.size = 16 := by
  cases i with
  | stc | std | sti => cases hacc
  | sqrtpd | sqrtps =>
    obtain ⟨m, -, rfl⟩ := rmAccess_eq_some.1 hacc
    rfl
  | stmxcsr | vstmxcsr | stosM8 | stosM16 | stosM32 | stosM64 | stosb | stosw | stosd | stosq =>
    obtain rfl := Option.some.inj hacc
    cases hr
  | _ =>
    obtain ⟨m, -, rfl⟩ := rmAccess_eq_some.1 hacc
    cases hr

/-- CPL 3 is not that of real-address mode (10_state.md R36). -/
theorem mode_ne_real_of_currentCpl {s : State} (h : currentCpl s = 3) : mode s ≠ .real := by
  intro hm
  simp [currentCpl, hm] at h

/-- Settles O42: past SegCheck and the canonical addresses, the access is stopped by its alignment. -/
theorem alignmentCheckFault : Obligations.AlignmentCheckFault := by
  intro i s a hav hacc hseg hcan hsize ham hac hcpl hmis
  have hrule : (a.rule == .packed16) = false := by
    refine beq_eq_false_iff_ne.2 fun hr => ?_
    rw [size_of_memAccess_packed16 hacc hr] at hsize
    simp at hsize
  have hn : (a.size == 2 || a.size == 4 || a.size == 8) = true := by simpa [or_assoc] using hsize
  have halign : alignFault s (linearAddr s a.seg a.off) a.size a.rule = some .ac := by
    simp [alignFault, hrule, hn, ham, hac, hcpl, hmis]
  rw [exec_of_checkAccess_raise hav hacc (by rw [checkAccess_of_reachable hseg hcan, halign]; rfl),
    raise_of_hasCode rfl, if_neg (mode_ne_real_of_currentCpl hcpl)]

/-- Legacy SQRTPD and SQRTPS read under the 16-byte rule. -/
theorem rule_of_memAccess_legacyPacked {p : Pfx} {reg : BitVec 3} {m : MemForm} {i : Instr} {s : State} {a : MemAccess}
    (hi : i ∈ [.sqrtpd p reg (.mem m), .sqrtps p reg (.mem m)]) (hacc : memAccess i s = some a) :
    a.rule = .packed16 := by
  simp only [List.mem_cons, List.not_mem_nil, or_false] at hi
  obtain rfl | rfl := hi
  · obtain rfl := Option.some.inj hacc
    rfl
  · obtain rfl := Option.some.inj hacc
    rfl

/-- Settles O43: the 16-byte rule stops the access before AM, AC and CPL are asked. -/
theorem misalignedLegacyPacked : Obligations.MisalignedLegacyPacked := by
  intro p reg m i s a hi hav hacc hseg hcan hmis
  have halign : alignFault s (linearAddr s a.seg a.off) a.size a.rule = some .gp := by
    simp [alignFault, rule_of_memAccess_legacyPacked hi hacc, hmis]
  rw [exec_of_checkAccess_raise hav hacc (by rw [checkAccess_of_reachable hseg hcan, halign]; rfl),
    raise_of_hasCode rfl]

/-! ## The program text (20_memory.md R70) -/

/-- Where a linear address lies depends on CR0 and `Translate` alone. -/
theorem physOf_congr {s t : State} (hcr0 : t.cr0 = s.cr0) (hpages : t.pages = s.pages) (y : BitVec 64) :
    physOf t y = physOf s y := by
  unfold physOf cr0PG pageOf
  rw [hcr0, hpages]

/-- A store through the linear address of a text byte, or through another one of the same physical byte, meets a text
cell. -/
theorem any_textCell_of_store {s : State} {as : List (BitVec 64)}
    (hpage : as.all (fun x => !pageFaults s .write x) = true)
    (h : ∃ x ∈ as, inText s x = true ∨
      ∃ y, inText s y = true ∧ pageFaults s .execute y = false ∧ physOf s y = physOf s x) :
    (as.map (physOf s)).any (textCell s) = true := by
  obtain ⟨x, hx, htext⟩ := h
  refine List.any_eq_true.2 ⟨physOf s x, List.mem_map_of_mem hx, textCell_eq_true.2 ?_⟩
  obtain hin | halias := htext
  · have hw : pageFaults s .write x = false := by simpa using List.all_eq_true.1 hpage x hx
    exact ⟨x, hin, pageFaults_execute_of_write hw, rfl⟩
  · exact halias

/-- A store that passed every check reaches no byte of the program text. -/
theorem textCell_notMem_of_accessOk {s : State} {a : MemAccess} {q : Nat} (hk : a.kind = .write)
    (hok : accessOk s a.seg a.off a.size a.kind a.rule = true) (hq : textCell s q = true) :
    q ∉ operandPhys s a.seg a.off a.size := by
  intro hin
  rw [hk] at hok
  simp only [accessOk, Bool.and_eq_true] at hok
  obtain ⟨⟨-, htext⟩, -⟩ := hok
  have hall : (operandPhys s a.seg a.off a.size).all (fun p => !textCell s p) = true := htext
  simpa [hq] using List.all_eq_true.1 hall q hin

/-- Settles O45: a store that meets a text cell is refused, and a step that answers stores to none. -/
theorem storeToTextRefused : Obligations.StoreToTextRefused := by
  refine ⟨?refused, ?kept⟩
  case refused =>
    intro i s a hav hacc hk hseg hcan halign hpage htext
    refine exec_of_checkAccess_refused hav hacc ?_
    rw [hk] at hseg hpage ⊢
    exact checkAccess_write_of_textCell hseg hcan halign hpage (any_textCell_of_store hpage htext)
  case kept =>
    intro s t y hwf hstep hin hfault
    obtain ⟨-, -, -, i, -, hexec⟩ := step_eq_next.1 hstep
    obtain ⟨hcr0, -, -, -, -, -, -, -, -, -, -, -, -, -, -, -, -, -, hpages, -⟩ := (exec_effect hexec).sameConstants
    rw [physOf_congr (s := s) hcr0 hpages y]
    have htext : textCell (passBoundary s) (physOf s y) = true :=
      textCell_eq_true.2 ⟨y, hin, hfault, rfl⟩
    exact (exec_storesOnly hexec).memRead_eq hwf fun a _ hk hok => textCell_notMem_of_accessOk hk hok htext

end Sys2Proof.Machine
end

section
/-! PROOFS. Where an operand lies, in exact arithmetic (20_memory.md R55 to R58, 10_state.md R35, 30_encoding.md R84 to
R89). -/

namespace Sys2Proof.Machine

/-! ## The mode, by name (10_state.md R37) -/

theorem in64_eq_true {s : State} : in64 s = true ↔ mode s = .mode64 := by simp [in64]

theorem in64_eq_false {s : State} : in64 s = false ↔ mode s ≠ .mode64 := by simp [in64]

theorem realOrV86_eq_true {s : State} : realOrV86 s = true ↔ mode s = .real ∨ mode s = .v86 := by simp [realOrV86]

/-! ## Segment bases and linear addresses (20_memory.md R57, R58) -/

/-- CS holds what reset put into it exactly in real-address mode with the selector and the base of the reset table. -/
theorem csFromReset_eq_true {s : State} :
    csFromReset s = true ↔ mode s = .real ∧ s.cs.sel = 0xF000 ∧ s.cs.base = 0xFFFF0000 := by
  simp [csFromReset, and_assoc]

/-- The base of a segment as a number, mode by mode. -/
def exactBase (s : State) (g : SegName) : Nat :=
  if mode s = .mode64 then (if g = .fs then s.fs.base.toNat else if g = .gs then s.gs.base.toNat else 0)
  else if mode s = .real ∧ g = .cs ∧ s.cs.sel = 0xF000 ∧ s.cs.base = 0xFFFF0000 then 0xFFFF0000
  else if mode s = .real ∨ mode s = .v86 then (segReg s g).sel.toNat * 16
  else (segReg s g).base.toNat

/-- `segBase` in 64-bit mode: FS and GS have their base, the others 0. -/
theorem segBase_toNat_of_mode64 {s : State} (h : mode s = .mode64) (g : SegName) :
    (segBase s g).toNat = exactBase s g := by
  rw [segBase, if_pos (in64_eq_true.2 h), exactBase, if_pos h]
  cases g <;> rfl

/-- `segBase` outside it: the base of the reset table, the selector times 16, or the hidden base. -/
theorem segBase_toNat_of_not_mode64 {s : State} (h : mode s ≠ .mode64) (g : SegName) :
    (segBase s g).toNat = exactBase s g := by
  have h64 := in64_eq_false.2 h
  rw [exactBase, if_neg h]
  by_cases hreset : g = .cs ∧ csFromReset s = true
  · obtain ⟨rfl, hcs⟩ := hreset
    obtain ⟨hm, hsel, hbase⟩ := csFromReset_eq_true.1 hcs
    rw [if_pos ⟨hm, rfl, hsel, hbase⟩]
    simp [segBase, h64, hcs, segReg, hbase]
  · have hno : ¬ (mode s = .real ∧ g = .cs ∧ s.cs.sel = 0xF000 ∧ s.cs.base = 0xFFFF0000) :=
      fun ⟨hm, hg, hsel, hbase⟩ => hreset ⟨hg, csFromReset_eq_true.2 ⟨hm, hsel, hbase⟩⟩
    have hcs : (g == .cs && csFromReset s) = false := by simpa using hreset
    rw [if_neg hno, segBase, h64, hcs]
    by_cases hr : realOrV86 s = true
    · have := (segReg s g).sel.isLt
      rw [if_pos (realOrV86_eq_true.1 hr), hr]
      simp
      omega
    · rw [if_neg fun h' => hr (realOrV86_eq_true.2 h')]
      simp [hr]

/-- `segBase` is the number that the mode gives. -/
theorem segBase_toNat (s : State) (g : SegName) : (segBase s g).toNat = exactBase s g := by
  by_cases h : mode s = .mode64
  · exact segBase_toNat_of_mode64 h g
  · exact segBase_toNat_of_not_mode64 h g

/-- Byte `k` of an operand lies at base plus offset plus `k`, modulo 2^64 in 64-bit mode and 2^32 elsewhere. -/
theorem byteAddr_linearAddr_toNat (s : State) (g : SegName) (off : BitVec 64) (k : Nat) :
    (byteAddr s (linearAddr s g off) k).toNat =
      (exactBase s g + off.toNat + k) % (if mode s = .mode64 then 2 ^ 64 else 2 ^ 32) := by
  rw [← segBase_toNat]
  unfold byteAddr linearAddr
  by_cases h : mode s = .mode64
  · rw [if_pos (in64_eq_true.2 h), if_pos (in64_eq_true.2 h), if_pos h]
    simp
  · rw [in64_eq_false.2 h, if_neg h]
    simp only [Bool.false_eq_true, if_false, BitVec.toNat_setWidth, BitVec.toNat_add, BitVec.toNat_ofNat]
    omega

/-- The linear addresses of an operand, one by one. -/
theorem operandAddrs_getElem? {s : State} {g : SegName} {off : BitVec 64} {n k : Nat} (hk : k < n) :
    (operandAddrs s g off n)[k]? = some (byteAddr s (linearAddr s g off) k) := by
  simp [operandAddrs, byteAddrs, hk]

/-- With paging off the linear address is the physical one (20_memory.md R61). -/
theorem operandPhys_of_paging_off {s : State} (h : cr0PG s = false) (g : SegName) (off : BitVec 64) (n : Nat) :
    operandPhys s g off n = (operandAddrs s g off n).map BitVec.toNat := by
  have hp : physOf s = BitVec.toNat := funext fun a => by simp [physOf, h]
  rw [operandPhys, hp]

/-! ## Registers and sizes of an address (30_encoding.md R82, R89) -/

/-- The number of bits of an address size. -/
def addrBitCount : AddrSize → Nat
  | .a16 => 16
  | .a32 => 32
  | .a64 => 64

theorem addrBitCount_le (a : AddrSize) : addrBitCount a ≤ 64 := by cases a <;> decide

/-- The bits of the address size that the prefixes and the mode choose. -/
theorem addrBitCount_addrSize (s : State) (adsz : Bool) :
    addrBitCount (addrSize (codeCtx s) adsz) = addrSizeBits s adsz := by
  unfold addrSize addrSizeBits
  by_cases h : mode s = .mode64
  · rw [if_pos (show (codeCtx s).m64 = true from in64_eq_true.2 h), if_pos h]
    cases adsz <;> rfl
  · have hd : (codeCtx s).d32 = true ↔ s.cs.d = true ∧ mode s ≠ .real ∧ mode s ≠ .v86 := by
      simp [codeCtx, default32, realOrV86]
    rw [show (codeCtx s).m64 = false from in64_eq_false.2 h, if_neg h]
    simp only [← hd]
    cases (codeCtx s).d32 <;> cases adsz <;> rfl

/-- A register number is its three bits and the extension, which counts in 64-bit mode. -/
theorem regNum_eq_extendedReg (s : State) (ext : Bool) (n : BitVec 3) : regNum s ext n = extendedReg s ext n := by
  have hlow : ∀ n : BitVec 3, BitVec.ofBool false ++ n = BitVec.ofNat 4 (n.toNat + 0) := by decide
  have hhigh : ∀ n : BitVec 3, BitVec.ofBool true ++ n = BitVec.ofNat 4 (n.toNat + 8) := by decide
  unfold regNum extendedReg
  by_cases h : mode s = .mode64 ∧ ext = true
  · rw [if_pos h, ← hhigh, in64_eq_true.2 h.1, h.2]
    rfl
  · have hc : (in64 s && ext) = false := by simpa [in64] using h
    rw [if_neg h, ← hlow, hc]

/-! ## Words that stand for a number modulo the address size (20_memory.md R55) -/

/-- The word stands for the number modulo 2^b. -/
def StandsFor (b : Nat) (v : BitVec 64) (x : Int) : Prop := (v.toNat : Int) ≡ x [ZMOD 2 ^ b]

/-- A number cut to 64 bits is the same number modulo a smaller power. -/
theorem mod_two_pow_64_modEq {b : Nat} (hb : b ≤ 64) (n : Nat) : ((n % 2 ^ 64 : Nat) : Int) ≡ n [ZMOD 2 ^ b] := by
  rw [Int.natCast_mod]
  exact (Int.mod_modEq (n : Int) ((2 ^ 64 : Nat) : Int)).of_dvd (by exact_mod_cast pow_dvd_pow 2 hb)

theorem standsFor_ofNat {b : Nat} (hb : b ≤ 64) (n : Nat) : StandsFor b (BitVec.ofNat 64 n) n := by
  rw [StandsFor, BitVec.toNat_ofNat]
  exact mod_two_pow_64_modEq hb n

theorem StandsFor.add {b : Nat} (hb : b ≤ 64) {v w : BitVec 64} {x y : Int} (hv : StandsFor b v x)
    (hw : StandsFor b w y) : StandsFor b (v + w) (x + y) := by
  rw [StandsFor, BitVec.toNat_add]
  refine (mod_two_pow_64_modEq hb _).trans ?_
  rw [Nat.cast_add]
  exact Int.ModEq.add hv hw

theorem StandsFor.shiftLeft {b : Nat} (hb : b ≤ 64) {v : BitVec 64} {x : Int} (hv : StandsFor b v x) (k : Nat) :
    StandsFor b (v <<< k) (x * 2 ^ k) := by
  rw [StandsFor, BitVec.toNat_shiftLeft, Nat.shiftLeft_eq]
  refine (mod_two_pow_64_modEq hb _).trans ?_
  push_cast
  exact Int.ModEq.mul_right _ hv

/-- A sign-extended value stands for its signed number. -/
theorem standsFor_signExtend {b w : Nat} (hb : b ≤ 64) (hw : w ≤ 64) (v : BitVec w) :
    StandsFor b (v.signExtend 64) v.toInt := by
  have h64 : ((v.signExtend 64).toNat : Int) ≡ v.toInt [ZMOD (2 ^ 64 : Nat)] := by
    rw [← BitVec.toInt_signExtend_of_le hw, BitVec.toInt_eq_toNat_bmod]
    exact Int.bmod_emod.symm
  exact h64.of_dvd (by exact_mod_cast pow_dvd_pow 2 hb)

/-- A displacement stands for its signed number (30_encoding.md R87). -/
theorem standsFor_dispValue {b w : Nat} (hb : b ≤ 64) (hw : w ≤ 64) (d : Disp w) :
    StandsFor b (dispValue d) (dispInt d) := by
  cases d with
  | none => exact Int.ModEq.refl 0
  | d8 v => exact standsFor_signExtend hb (by decide) v
  | full v => exact standsFor_signExtend hb hw v

/-- Cutting to the address size takes the number modulo its bits. -/
theorem truncA_toNat (a : AddrSize) (v : BitVec 64) : (truncA a v).toNat = v.toNat % 2 ^ addrBitCount a := by
  cases a with
  | a16 | a32 =>
    simp only [truncA, addrBitCount, BitVec.toNat_setWidth]
    omega
  | a64 => exact (Nat.mod_eq_of_lt v.isLt).symm

/-- A word cut to the address size is the number it stands for, cut to the same size. -/
theorem StandsFor.truncA_toNat {a : AddrSize} {v : BitVec 64} {x : Int} (h : StandsFor (addrBitCount a) v x) :
    ((truncA a v).toNat : Int) = x % 2 ^ addrBitCount a := by
  rw [Machine.truncA_toNat, Int.natCast_mod]
  push_cast
  exact h

/-- A register of an address stands for its whole value (30_encoding.md R85). -/
theorem standsFor_addrReg (s : State) (a : AddrSize) (i : BitVec 4) :
    StandsFor (addrBitCount a) (addrReg s a i) (readX s i).toNat := by
  rw [StandsFor, addrReg, truncA_toNat, Int.natCast_mod]
  push_cast
  exact Int.mod_modEq _ _

/-! ## Effective addresses (20_memory.md R55, 30_encoding.md R84 to R87) -/

/-- The rows of the 16-bit table, one by one. -/
theorem base16_eq_sum (s : State) (rm : BitVec 3) :
    base16 s rm = ((rowRegs16.getD rm.toNat []).map (addrReg s .a16)).sum := by
  have hrows : ∀ rm : BitVec 3, rm = 0 ∨ rm = 1 ∨ rm = 2 ∨ rm = 3 ∨ rm = 4 ∨ rm = 5 ∨ rm = 6 ∨ rm = 7 := by decide
  obtain rfl | rfl | rfl | rfl | rfl | rfl | rfl | rfl := hrows rm <;> simp [base16, rowRegs16]

/-- A sum of registers stands for the sum of their values. -/
theorem standsFor_sum_addrReg (s : State) (a : AddrSize) (l : List (BitVec 4)) :
    StandsFor (addrBitCount a) (l.map (addrReg s a)).sum (l.map fun i => ((readX s i).toNat : Int)).sum := by
  induction l with
  | nil => exact Int.ModEq.refl 0
  | cons i l ih => exact (standsFor_addrReg s a i).add (addrBitCount_le a) ih

/-- The scaled index of a SIB byte stands for index times scale (30_encoding.md R86). -/
theorem standsFor_sibIndex (s : State) (a : AddrSize) (e : AddrBits) (scale : BitVec 2) (index : BitVec 3) :
    StandsFor (addrBitCount a) (sibIndex s a e scale index) (scaledIndex s e scale index) := by
  unfold sibIndex scaledIndex
  rw [regNum_eq_extendedReg]
  split
  · exact Int.ModEq.refl 0
  · exact (standsFor_addrReg s a _).shiftLeft (addrBitCount_le a) _

/-- A displacement alone: relative to the next instruction in 64-bit mode (30_encoding.md R85). -/
theorem standsFor_memDisp {b : Nat} (hb : b ≤ 64) (s : State) (len : Nat) (d : BitVec 32) :
    StandsFor b (if in64 s then s.pc + BitVec.ofNat 64 len + d.signExtend 64 else d.signExtend 64)
      ((if mode s = .mode64 then (s.pc.toNat + len : Int) else 0) + d.toInt) := by
  have hd := standsFor_signExtend hb (by decide) d
  by_cases h : mode s = .mode64
  · rw [if_pos (in64_eq_true.2 h), if_pos h]
    have hpc : StandsFor b s.pc s.pc.toNat := Int.ModEq.refl _
    exact (hpc.add hb (standsFor_ofNat hb len)).add hb hd
  · rw [in64_eq_false.2 h, if_neg h, Int.zero_add]
    exact hd

/-- The offset of a memory operand, form by form, is its exact sum cut to the address size. -/
theorem effAddr_toNat (s : State) (e : AddrBits) (len : Nat) (m : MemForm) :
    ((effAddr s e len m).toNat : Int) = exactAddr s e len m % 2 ^ formBits s e m := by
  have hle := addrBitCount_le (addrSize (codeCtx s) e.adsz)
  cases m with
  | mem16 rm d =>
    refine StandsFor.truncA_toNat (a := .a16)
      (.add (by decide) ?_ (standsFor_dispValue (by decide) (by decide) d))
    rw [base16_eq_sum]
    exact standsFor_sum_addrReg s .a16 _
  | mem16Abs d =>
    refine StandsFor.truncA_toNat (a := .a16) ?_
    rw [StandsFor, BitVec.toNat_setWidth_of_le (by decide)]
    rfl
  | memBase rm d =>
    rw [formBits, ← addrBitCount_addrSize]
    refine StandsFor.truncA_toNat (StandsFor.add hle ?_ (standsFor_dispValue hle (by decide) d))
    rw [regNum_eq_extendedReg]
    exact standsFor_addrReg s _ _
  | memDisp d =>
    rw [formBits, ← addrBitCount_addrSize]
    exact StandsFor.truncA_toNat (standsFor_memDisp hle s len d)
  | memSib sc ix bs d =>
    rw [formBits, ← addrBitCount_addrSize]
    refine StandsFor.truncA_toNat (.add hle (.add hle ?_ (standsFor_sibIndex s _ e sc ix))
      (standsFor_dispValue hle (by decide) d))
    rw [regNum_eq_extendedReg]
    exact standsFor_addrReg s _ _
  | memSibNoBase sc ix d =>
    rw [formBits, ← addrBitCount_addrSize]
    exact StandsFor.truncA_toNat (.add hle (standsFor_sibIndex s _ e sc ix) (standsFor_signExtend hle (by decide) d))

/-! ## Segments of a memory operand (20_memory.md R56, 30_encoding.md R76) -/

/-- SP and BP are the stack bases (30_encoding.md R86). -/
theorem stackBase_eq_true {i : BitVec 4} : stackBase i = true ↔ i = 4 ∨ i = 5 := by simp [stackBase]

/-- A choice between SS and DS by a condition, said with an equivalent one. -/
theorem ss_or_ds_cases {p q : Prop} [Decidable p] (h : p ↔ q) :
    (q ∧ (if p then SegName.ss else .ds) = .ss) ∨ (¬ q ∧ (if p then SegName.ss else .ds) = .ds) := by
  rw [← h]
  by_cases hp : p <;> simp [hp]

/-- The default segment is SS for a base of SP or BP, and DS for any other. -/
theorem defaultSeg_cases (s : State) (e : AddrBits) (m : MemForm) :
    (stackBased s e m ∧ defaultSeg s e m = .ss) ∨ (¬ stackBased s e m ∧ defaultSeg s e m = .ds) := by
  cases m with
  | mem16Abs | memDisp | memSibNoBase => exact .inr ⟨id, rfl⟩
  | mem16 rm => exact ss_or_ds_cases Iff.rfl
  | memBase rm => exact ss_or_ds_cases (by rw [stackBase_eq_true, regNum_eq_extendedReg]; rfl)
  | memSib _ _ bs => exact ss_or_ds_cases (by rw [stackBase_eq_true, regNum_eq_extendedReg]; rfl)

/-- An override is the segment, but for ES, CS, SS and DS in 64-bit mode. -/
theorem operandSeg_of_override {s : State} {e : AddrBits} {m : MemForm} {g : SegName} (he : e.seg = some g)
    (hg : mode s ≠ .mode64 ∨ g = .fs ∨ g = .gs) : operandSeg s e m = g := by
  have hc : (in64 s && !(g == .fs || g == .gs)) = false := by
    obtain hm | rfl | rfl := hg
    · rw [in64_eq_false.2 hm]
      rfl
    · exact Bool.and_false _
    · exact Bool.and_false _
  simp only [operandSeg, he, hc, Bool.false_eq_true, if_false]

/-- Without an override that counts, the segment is the default one (log 20). -/
theorem operandSeg_of_no_override {s : State} {e : AddrBits} {m : MemForm}
    (h : e.seg = none ∨ (mode s = .mode64 ∧ ∃ g ∈ [SegName.es, .cs, .ss, .ds], e.seg = some g)) :
    operandSeg s e m = defaultSeg s e m := by
  obtain hn | ⟨hm, g, hg, he⟩ := h
  · rw [operandSeg, hn]
  · have hov : ∀ g ∈ [SegName.es, .cs, .ss, .ds], (g == .fs || g == .gs) = false := by decide
    simp only [operandSeg, he, in64_eq_true.2 hm, hov g hg, Bool.not_false, Bool.and_true, if_true]

/-! ## The obligation -/

/-- An instruction changes no byte but those it stores to (20_memory.md R48, R50, R54). -/
theorem exec_keepsOutside {i : Instr} {s t : State} (hwf : Memory.wf s.mem = true) (h : exec i s = .next t)
    {ps : List Nat} (hps : ∀ a, memAccess i s = some a → a.kind = .write → operandPhys s a.seg a.off a.size = ps) :
    keepsOutside s t ps :=
  fun _ hq => (exec_storesOnly h).memRead_eq hwf fun a hacc hk _ => by rwa [hps a hacc hk]

/-- Settles O9, clause by clause: the frame of a store, the linear address, the offset, the segment. -/
theorem onlyStoredBytesChange : Obligations.OnlyStoredBytesChange := by
  refine ⟨?frame, ?linear, ?offset, ?segment⟩
  case frame =>
    intro i s t hwf h
    refine exec_keepsOutside hwf h fun a hacc hk => ?_
    simp only [hacc, hk, if_true]
  case linear =>
    intro s g off n k hk
    refine ⟨?_, fun hpg => operandPhys_of_paging_off hpg g off n⟩
    rw [operandAddrs_getElem? hk, Option.map_some, byteAddr_linearAddr_toNat, exactBase]
    split_ifs <;> rfl
  case offset =>
    intro s e len m
    refine ⟨effAddr_toNat s e len m, ?_⟩
    rw [addrReg, truncA_toNat, addrBitCount_addrSize]
  case segment =>
    intro s e m
    refine ⟨fun g he hg => operandSeg_of_override he hg, fun h => ?_⟩
    rw [operandSeg_of_no_override h]
    obtain ⟨hst, hseg⟩ | ⟨hst, hseg⟩ := defaultSeg_cases s e m
    · exact ⟨fun _ => hseg, fun hn => absurd hst hn⟩
    · exact ⟨fun hs => absurd hs hst, fun _ => hseg⟩

end Sys2Proof.Machine
end

section
/-! PROOFS. The ModR/M operand: reading it is the inverse of writing it (30_encoding.md R83 to R87). -/

namespace Sys2Proof

/-! ## Little-endian values -/

/-- Byte `k` of a list is digit `k`, base 256, of the number it stands for. -/
theorem leNat_digit {bs : List Byte} {k : Nat} (hk : k < bs.length) : leNat bs / 256 ^ k % 256 = bs[k].toNat := by
  induction bs generalizing k with
  | nil => cases hk
  | cons b bs ih =>
    have hb := b.isLt
    cases k with
    | zero => simp only [leNat, List.getElem_cons_zero]; omega
    | succ k =>
      have hdiv : (b.toNat + 256 * leNat bs) / 256 = leNat bs := by omega
      rw [leNat, pow_succ', ← Nat.div_div_eq_div_mul, hdiv, List.getElem_cons_succ]
      exact ih (Nat.lt_of_succ_lt_succ hk)

/-- A number of `n` bytes fits into `8 n` bits. -/
theorem leNat_lt (bs : List Byte) : leNat bs < 2 ^ (8 * bs.length) := by
  induction bs with
  | nil => simp [leNat]
  | cons b bs ih =>
    have hb := b.isLt
    rw [leNat, List.length_cons, Nat.mul_succ, pow_add]
    omega

/-- Bytes read as a value and written again are the same bytes. -/
theorem leBytes_leValue (bs : List Byte) : leBytes bs.length (leValue (8 * bs.length) bs) = bs := by
  refine List.ext_getElem (Machine.leBytes_length _ _) fun k _ hk => BitVec.eq_of_toNat_eq ?_
  have hpow : 2 ^ (8 * k) = 256 ^ k := by rw [pow_mul]; rfl
  simp only [leBytes, List.getElem_map, List.getElem_range, leValue, BitVec.extractLsb'_toNat, BitVec.toNat_ofNat,
    Nat.mod_eq_of_lt (leNat_lt bs), Nat.shiftRight_eq_div_pow, hpow]
  exact leNat_digit hk

/-- A little-endian value is read exactly from its own bytes. -/
theorem takeLe_eq_some {w n : Nat} (hw : w = 8 * n) {bs r : List Byte} {v : BitVec w} :
    takeLe w n bs = some (v, r) ↔ bs = leBytes n v ++ r := by
  subst hw
  unfold takeLe
  split
  next h =>
    refine ⟨nofun, fun hbs => ?_⟩
    simp [hbs] at h
  next h =>
    simp only [Option.some.injEq, Prod.mk.injEq]
    constructor
    · rintro ⟨rfl, rfl⟩
      have hlen : (bs.take n).length = n := List.length_take_of_le (Nat.le_of_not_lt h)
      have hb := leBytes_leValue (bs.take n)
      rw [hlen] at hb
      rw [hb, List.take_append_drop]
    · rintro rfl
      refine ⟨?_, List.drop_left' (Machine.leBytes_length n v)⟩
      rw [List.take_left' (Machine.leBytes_length n v), (Machine.littleEndianBytes n v).1]

/-! ## Displacements (R87) -/

@[simp] theorem dispMod_ne_three {w : Nat} (d : Disp w) : dispMod d ≠ 3#2 := by cases d <;> simp [dispMod]

/-- A displacement is present when its `mod` field is not 00. -/
theorem Disp.present_eq {w : Nat} (d : Disp w) : d.present = (dispMod d != 0) := by cases d <;> rfl

/-- The displacement that `mod` asks for is read exactly from its own bytes. -/
theorem takeDisp_eq_some {w n : Nat} (hw : w = 8 * n) {mod : BitVec 2} (hmod : mod ≠ 3#2) {bs r : List Byte}
    {d : Disp w} :
    takeDisp w n mod bs = some (d, r) ↔ dispMod d = mod ∧ bs = encodeDisp n d ++ r := by
  have hcases : ∀ m : BitVec 2, m = 0 ∨ m = 1 ∨ m = 2 ∨ m = 3 := by decide
  obtain rfl | rfl | rfl | rfl := hcases mod
  · cases d <;> simp [takeDisp, dispMod, encodeDisp]
  · cases d <;> simp [takeDisp, dispMod, encodeDisp, takeLe_eq_some (w := 8) (n := 1) rfl]
  · cases d <;> simp [takeDisp, dispMod, encodeDisp, takeLe_eq_some hw]
  · exact absurd rfl hmod

/-! ## The fields of an operand -/

/-- The `mod` field of a memory operand (R84 to R87). -/
def MemForm.modField : MemForm → BitVec 2
  | .mem16 _ d => dispMod d
  | .mem16Abs _ => 0
  | .memBase _ d => dispMod d
  | .memDisp _ => 0
  | .memSib _ _ _ d => dispMod d
  | .memSibNoBase _ _ _ => 0

/-- The `r/m` field of a memory operand (R84 to R86). -/
def MemForm.rmField : MemForm → BitVec 3
  | .mem16 rm _ => rm
  | .mem16Abs _ => 6
  | .memBase rm _ => rm
  | .memDisp _ => 5
  | .memSib _ _ _ _ => 4
  | .memSibNoBase _ _ _ => 4

/-- What follows the ModR/M byte of a memory operand: SIB byte and displacement (R86, R87). -/
def MemForm.tailBytes : MemForm → List Byte
  | .mem16 _ d => encodeDisp 2 d
  | .mem16Abs d => leBytes 2 d
  | .memBase _ d => encodeDisp 4 d
  | .memDisp d => leBytes 4 d
  | .memSib sc ix bs d => byteOfFields sc ix bs :: encodeDisp 4 d
  | .memSibNoBase sc ix d => byteOfFields sc ix 5 :: leBytes 4 d

/-- The ModR/M fields of an operand beside the register field `reg` (R83). -/
def RM.fields (reg : BitVec 3) : RM → ModRM
  | .reg n => ⟨3, reg, n⟩
  | .mem m => ⟨m.modField, reg, m.rmField⟩

/-- What follows the ModR/M byte of an operand. -/
def RM.tailBytes : RM → List Byte
  | .reg _ => []
  | .mem m => m.tailBytes

@[simp] theorem RM.fields_reg (reg : BitVec 3) (rm : RM) : (rm.fields reg).reg = reg := by cases rm <;> rfl

/-- Memory has no `mod` field 11 (R83). -/
@[simp] theorem MemForm.modField_ne_three (m : MemForm) : m.modField ≠ 3#2 := by
  cases m with
  | mem16 _ d | memBase _ d | memSib _ _ _ d => exact dispMod_ne_three d
  | mem16Abs _ | memDisp _ | memSibNoBase _ _ _ => simp [modField]

/-- An operand is written as its ModR/M byte and what follows it. -/
theorem encodeRM_eq (reg : BitVec 3) (rm : RM) :
    encodeRM reg rm = byteOfFields (rm.fields reg).mod (rm.fields reg).reg (rm.fields reg).rm :: rm.tailBytes := by
  cases rm with
  | reg n => rfl
  | mem m => cases m <;> rfl

/-- The fields of a byte are those it was made of. -/
@[simp] theorem modRMOfByte_byteOfFields :
    ∀ (hi : BitVec 2) (mid lo : BitVec 3), modRMOfByte (byteOfFields hi mid lo) = ⟨hi, mid, lo⟩ := by decide

/-- A byte is made of its fields. -/
theorem byteOfFields_modRMOfByte :
    ∀ b : Byte, byteOfFields (modRMOfByte b).mod (modRMOfByte b).reg (modRMOfByte b).rm = b := by decide

/-- The fields of a SIB or ModR/M byte can be told from the byte. -/
@[simp] theorem byteOfFields_inj {hi hi' : BitVec 2} {mid lo mid' lo' : BitVec 3} :
    byteOfFields hi mid lo = byteOfFields hi' mid' lo' ↔ hi = hi' ∧ mid = mid' ∧ lo = lo' := by
  refine ⟨fun h => ?_, fun ⟨h1, h2, h3⟩ => by rw [h1, h2, h3]⟩
  simpa using congrArg modRMOfByte h

/-- Every byte is made of three fields. -/
theorem exists_byteOfFields (b : Byte) : ∃ hi mid lo, b = byteOfFields hi mid lo :=
  ⟨_, _, _, (byteOfFields_modRMOfByte b).symm⟩

/-! ## Reading an operand -/

/-- The operand of address size 16 is read exactly from its own bytes (R84). -/
theorem takeMem16_eq_some {mod : BitVec 2} {rm : BitVec 3} (hmod : mod ≠ 3#2) {bs r : List Byte} {m : MemForm} :
    takeMem16 mod rm bs = some (m, r) ↔
      m.wellFormed .a16 = true ∧ m.modField = mod ∧ m.rmField = rm ∧ bs = m.tailBytes ++ r := by
  unfold takeMem16
  cases m with
  | mem16 _ _ | mem16Abs _ =>
    split <;> simp [MemForm.wellFormed, MemForm.modField, MemForm.rmField, MemForm.tailBytes, Disp.present_eq,
        takeLe_eq_some (w := 16) (n := 2) rfl, takeDisp_eq_some (w := 16) (n := 2) rfl hmod] <;> grind
  | memBase _ _ | memDisp _ | memSib _ _ _ _ | memSibNoBase _ _ _ => split <;> simp [MemForm.wellFormed]

/-- What a SIB byte of given fields stands for (R86). -/
theorem takeSib_byteOfFields (mod sc : BitVec 2) (ix base : BitVec 3) (bs : List Byte) :
    takeSib mod (byteOfFields sc ix base :: bs) =
      if mod = 0 ∧ base = 5 then (takeLe 32 4 bs).map fun (v, r) => (.memSibNoBase sc ix v, r)
      else (takeDisp 32 4 mod bs).map fun (d, r) => (.memSib sc ix base d, r) := by
  have hf : modRMOfByte (byteOfFields sc ix base) = ⟨sc, ix, base⟩ := modRMOfByte_byteOfFields sc ix base
  simp only [modRMOfByte, ModRM.mk.injEq] at hf
  obtain ⟨hsc, hix, hbase⟩ := hf
  simp only [takeSib, hsc, hix, hbase]

/-- A SIB byte and its displacement are read exactly from their own bytes (R86). -/
theorem takeSib_eq_some {mod : BitVec 2} (hmod : mod ≠ 3#2) {a : AddrSize} (ha : a ≠ .a16) {bs r : List Byte}
    {m : MemForm} :
    takeSib mod bs = some (m, r) ↔
      m.wellFormed a = true ∧ m.modField = mod ∧ m.rmField = 4 ∧ bs = m.tailBytes ++ r := by
  cases bs with
  | nil =>
    cases m with
    | mem16 _ _ | mem16Abs _ => simp [takeSib, MemForm.wellFormed, ha]
    | memBase _ _ | memDisp _ => simp +contextual [takeSib, MemForm.wellFormed, MemForm.rmField]
    | memSib _ _ _ _ | memSibNoBase _ _ _ => simp [takeSib, MemForm.tailBytes]
  | cons sib bs =>
    obtain ⟨sc, ix, base, rfl⟩ := exists_byteOfFields sib
    rw [takeSib_byteOfFields]
    cases m with
    | mem16 _ _ | mem16Abs _ => split <;> simp [MemForm.wellFormed, ha]
    | memBase _ _ | memDisp _ => split <;> simp +contextual [MemForm.wellFormed, MemForm.rmField]
    | memSib _ _ _ _ | memSibNoBase _ _ _ =>
      split <;> simp [MemForm.wellFormed, MemForm.modField, MemForm.rmField, MemForm.tailBytes, Disp.present_eq, ha,
        takeLe_eq_some (w := 32) (n := 4) rfl, takeDisp_eq_some (w := 32) (n := 4) rfl hmod] <;> grind

/-- The operand of address size 32 or 64 is read exactly from its own bytes (R85, R86). -/
theorem takeMem32_eq_some {mod : BitVec 2} {rm : BitVec 3} (hmod : mod ≠ 3#2) {a : AddrSize} (ha : a ≠ .a16)
    {bs r : List Byte} {m : MemForm} :
    takeMem32 mod rm bs = some (m, r) ↔
      m.wellFormed a = true ∧ m.modField = mod ∧ m.rmField = rm ∧ bs = m.tailBytes ++ r := by
  unfold takeMem32
  split
  next h => rw [takeSib_eq_some hmod ha, h]
  next h =>
    have h4 : ¬4#3 = rm := Ne.symm h
    cases m with
    | mem16 _ _ | mem16Abs _ => split <;> simp [MemForm.wellFormed, ha]
    | memSib _ _ _ _ | memSibNoBase _ _ _ => split <;> simp [MemForm.rmField, h4]
    | memBase _ _ | memDisp _ =>
      split <;> simp [MemForm.wellFormed, MemForm.modField, MemForm.rmField, MemForm.tailBytes, Disp.present_eq, ha,
        takeLe_eq_some (w := 32) (n := 4) rfl, takeDisp_eq_some (w := 32) (n := 4) rfl hmod] <;> grind

/-- What follows a ModR/M byte is read as an operand exactly when the operand is one of the address size, has the fields
of that byte and is written by the bytes read (R83 to R87). -/
theorem takeRM_eq_some {a : AddrSize} {f : ModRM} {bs r : List Byte} {rm : RM} :
    takeRM a f bs = some (rm, r) ↔ rm.wellFormed a = true ∧ rm.fields f.reg = f ∧ bs = rm.tailBytes ++ r := by
  obtain ⟨mod, reg, n⟩ := f
  unfold takeRM
  cases rm with
  | reg k =>
    by_cases hmod : mod = 3#2
    · simp [hmod, RM.wellFormed, RM.fields, RM.tailBytes, eq_comm]
    · simp [hmod, RM.fields, Ne.symm hmod]
  | mem m =>
    by_cases hmod : mod = 3#2
    · simp [hmod, RM.fields]
    · by_cases ha : a = .a16
      · simp [hmod, ha, takeMem16_eq_some hmod, RM.wellFormed, RM.fields, RM.tailBytes, and_assoc]
      · simp [hmod, ha, takeMem32_eq_some hmod ha, RM.wellFormed, RM.fields, RM.tailBytes, and_assoc]

end Sys2Proof
end

section
/-! PROOFS. The legacy prefixes: what each byte does to the scan, in any order (30_encoding.md R73, R74). -/

namespace Sys2Proof

/-! ## The prefixes by name -/

/-- The legacy prefixes (30_encoding.md R73). -/
inductive LegacyPrefix where
  | lock
  | rep (k : Rep)
  | seg (g : SegName)
  | opsz
  | adsz

namespace LegacyPrefix

/-- The bytes of the legacy prefixes (R73, R76). -/
def byte : LegacyPrefix → Byte
  | lock => 0xF0
  | rep .repne => 0xF2
  | rep .rep => 0xF3
  | seg g => segByte g
  | opsz => 0x66
  | adsz => 0x67

/-- The groups of the legacy prefixes (R73). -/
def group : LegacyPrefix → Nat
  | lock => 1
  | rep _ => 1
  | seg _ => 2
  | opsz => 3
  | adsz => 4

/-- The scan has taken one of this group already (R74). -/
def blocked (s : Scan) : LegacyPrefix → Bool
  | lock => s.lock || s.rep.isSome
  | rep _ => s.lock || s.rep.isSome
  | seg _ => s.seg.isSome
  | opsz => s.opsz
  | adsz => s.adsz

/-- The scan with this one taken. -/
def add (s : Scan) : LegacyPrefix → Scan
  | lock => { s with lock := true }
  | rep k => { s with rep := some k }
  | seg g => { s with seg := some g }
  | opsz => { s with opsz := true }
  | adsz => { s with adsz := true }

/-- Each of the prefixes blocks its own group and no other. -/
theorem blocked_add (s : Scan) (p q : LegacyPrefix) : q.blocked (p.add s) = (q.blocked s || p.group == q.group) := by
  cases p <;> cases q <;> simp [blocked, add, group]

/-- Prefixes of different groups can be taken in either order. -/
theorem add_comm {p q : LegacyPrefix} (h : p.group ≠ q.group) (s : Scan) : p.add (q.add s) = q.add (p.add s) := by
  cases p <;> cases q <;> simp_all [group, add]

end LegacyPrefix

/-! ## One byte -/

/-- The bytes of the prefixes are taken unless their group has one already. -/
theorem prefixStep_byte (s : Scan) (p : LegacyPrefix) :
    prefixStep s p.byte = if p.blocked s then .repeated else .taken (p.add s) := by
  cases p with
  | lock | opsz | adsz => rfl
  | rep k => cases k <;> rfl
  | seg g => cases g <;> rfl

theorem eq_segByte_of_segOfByte {b : Byte} {g : SegName} (h : segOfByte b = some g) : b = segByte g := by
  unfold segOfByte at h
  split_ifs at h <;> cases h <;> assumption

/-- A byte that does anything to a scan is one of theirs. -/
theorem exists_legacyPrefix {s : Scan} {b : Byte} (h : prefixStep s b ≠ .notPrefix) :
    ∃ p : LegacyPrefix, b = p.byte := by
  unfold prefixStep at h
  by_cases hl : b = 0xF0
  · exact ⟨.lock, hl⟩
  by_cases h2 : b = 0xF2
  · exact ⟨.rep .repne, h2⟩
  by_cases h3 : b = 0xF3
  · exact ⟨.rep .rep, h3⟩
  by_cases ho : b = 0x66
  · exact ⟨.opsz, ho⟩
  by_cases ha : b = 0x67
  · exact ⟨.adsz, ha⟩
  rw [if_neg hl, if_neg h2, if_neg h3, if_neg ho, if_neg ha] at h
  cases hs : segOfByte b with
  | some g => exact ⟨.seg g, eq_segByte_of_segOfByte hs⟩
  | none => simp [hs] at h

/-- The decoder's test names just their bytes. -/
theorem isLegacyPrefix_eq_true {b : Byte} : isLegacyPrefix b = true ↔ ∃ p : LegacyPrefix, b = p.byte := by
  constructor
  · intro h
    exact exists_legacyPrefix (s := Scan.empty) (by simpa [isLegacyPrefix] using h)
  · rintro ⟨p, rfl⟩
    rw [isLegacyPrefix, prefixStep_byte]
    split <;> rfl

@[simp] theorem isLegacyPrefix_byte (p : LegacyPrefix) : isLegacyPrefix p.byte = true :=
  isLegacyPrefix_eq_true.2 ⟨p, rfl⟩

/-! ## All prefixes -/

theorem scanPrefixes_byte (s : Scan) (p : LegacyPrefix) (bs : List Byte) :
    scanPrefixes s (p.byte :: bs) = if p.blocked s then .repeated else scanPrefixes (p.add s) bs := by
  rw [scanPrefixes, prefixStep_byte]
  cases p.blocked s <;> rfl

/-- The scan ends at the first other byte. -/
theorem scanPrefixes_of_not_legacy {b : Byte} (hb : isLegacyPrefix b = false) (s : Scan) (bs : List Byte) :
    scanPrefixes s (b :: bs) = .done s (b :: bs) := by
  have hn : prefixStep s b = .notPrefix := by
    by_contra hn
    rw [isLegacyPrefix_eq_true.2 (exists_legacyPrefix hn)] at hb
    cases hb
  rw [scanPrefixes, hn]

/-- Two prefixes in a row can be swapped: of one group they are refused either way. -/
theorem scanPrefixes_swap (s : Scan) (p q : LegacyPrefix) (bs : List Byte) :
    scanPrefixes s (p.byte :: q.byte :: bs) = scanPrefixes s (q.byte :: p.byte :: bs) := by
  simp only [scanPrefixes_byte, LegacyPrefix.blocked_add]
  by_cases hg : p.group = q.group
  · simp [hg]
  · have hg' : (p.group == q.group) = false := by simpa using hg
    have hg'' : (q.group == p.group) = false := by simpa using Ne.symm hg
    rw [LegacyPrefix.add_comm hg, hg', hg'', Bool.or_false, Bool.or_false]
    cases p.blocked s <;> cases q.blocked s <;> rfl

/-- The scan of prefixes does not depend on their order. -/
theorem scanPrefixes_perm {pre pre' : List Byte} (h : pre.Perm pre') (hpre : ∀ b ∈ pre, isLegacyPrefix b = true)
    (s : Scan) (rest : List Byte) : scanPrefixes s (pre ++ rest) = scanPrefixes s (pre' ++ rest) := by
  induction h generalizing s with
  | nil => rfl
  | cons b _ ih =>
    obtain ⟨p, rfl⟩ := isLegacyPrefix_eq_true.1 (hpre b (by simp))
    have ih := ih fun b hb => hpre b (List.mem_cons_of_mem _ hb)
    simp only [List.cons_append, scanPrefixes_byte, ih]
  | swap b b' _ =>
    obtain ⟨p, rfl⟩ := isLegacyPrefix_eq_true.1 (hpre b (by simp))
    obtain ⟨q, rfl⟩ := isLegacyPrefix_eq_true.1 (hpre b' (by simp))
    exact scanPrefixes_swap s q p _
  | trans h1 _ ih1 ih2 => exact (ih1 hpre s).trans (ih2 (fun b hb => hpre b (h1.mem_iff.2 hb)) s)

/-- Settles O4: the decoder sees of the prefixes only what their scan leaves. -/
theorem prefixOrderIrrelevant : Obligations.PrefixOrderIrrelevant := fun c pre pre' rest h hpre => by
  rw [decode, decode, scanPrefixes_perm h hpre]

/-! ## The prefixes of a scan, in the encoder's order -/

/-- The bytes of the prefixes of a scan, in the order in which the encoder writes them (30_encoding.md R72). -/
def Scan.bytes (s : Scan) : List Byte :=
  optByte s.lock 0xF0 ++ (encodeRep s.rep ++ (encodeSeg s.seg ++ (optByte s.opsz 0x66 ++ optByte s.adsz 0x67)))

/-- LOCK and F2 or F3 are of one group (R73, R74). -/
def Scan.oneOfGroup1 (s : Scan) : Bool := !(s.lock && s.rep.isSome)

/-- A byte at the head of a part of a list can be brought to the head of the list. -/
theorem perm_cons_of_part {b : Byte} {r r' : List Byte} (h : r.Perm (b :: r')) (l : List Byte) :
    (l ++ r).Perm (b :: (l ++ r')) :=
  (h.append_left l).trans List.perm_middle

/-- One taken more is one byte more. -/
theorem bytes_add_perm {s : Scan} {p : LegacyPrefix} (h : p.blocked s = false) :
    (p.add s).bytes.Perm (p.byte :: s.bytes) := by
  obtain ⟨l, k, g, o, a⟩ := s
  cases p with
  | lock =>
    obtain ⟨rfl, hk⟩ : l = false ∧ k.isSome = false := by simpa [LegacyPrefix.blocked] using h
    exact .refl _
  | rep r =>
    obtain ⟨rfl, rfl⟩ : l = false ∧ k = none := by simpa [LegacyPrefix.blocked] using h
    cases r <;> exact .refl _
  | seg n =>
    obtain rfl : g = none := by simpa [LegacyPrefix.blocked] using h
    exact perm_cons_of_part (perm_cons_of_part (.refl _) _) _
  | opsz =>
    obtain rfl : o = false := h
    exact perm_cons_of_part (perm_cons_of_part (perm_cons_of_part (.refl _) _) _) _
  | adsz =>
    obtain rfl : a = false := h
    exact perm_cons_of_part (perm_cons_of_part (perm_cons_of_part (perm_cons_of_part (.refl _) _) _) _) _

/-- What is not blocked leaves at most one of group 1. -/
theorem oneOfGroup1_add {s : Scan} {p : LegacyPrefix} (h : p.blocked s = false) (hs : s.oneOfGroup1 = true) :
    (p.add s).oneOfGroup1 = true := by
  cases p <;> simp_all [LegacyPrefix.blocked, LegacyPrefix.add, Scan.oneOfGroup1]

/-- What a finished scan has taken: prefixes only, which with those it began with are those of its result but for their
order; another byte comes next. -/
theorem scanPrefixes_eq_done {s t : Scan} {bs r : List Byte} (h : scanPrefixes s bs = .done t r)
    (hs : s.oneOfGroup1 = true) :
    ∃ pre b tl, bs = pre ++ r ∧ r = b :: tl ∧ isLegacyPrefix b = false ∧ (∀ x ∈ pre, isLegacyPrefix x = true) ∧
      (pre ++ s.bytes).Perm t.bytes ∧ t.oneOfGroup1 = true := by
  induction bs generalizing s with
  | nil => cases h
  | cons b bs ih =>
    cases hb : isLegacyPrefix b with
    | false =>
      rw [scanPrefixes_of_not_legacy hb] at h
      cases h
      exact ⟨[], b, bs, rfl, rfl, hb, by simp, .refl _, hs⟩
    | true =>
      obtain ⟨p, rfl⟩ := isLegacyPrefix_eq_true.1 hb
      rw [scanPrefixes_byte] at h
      cases hp : p.blocked s with
      | true => simp [hp] at h
      | false =>
        rw [hp] at h
        obtain ⟨pre, b', tl, rfl, hr, hb', hpre, hperm, ht⟩ := ih h (oneOfGroup1_add hp hs)
        refine ⟨p.byte :: pre, b', tl, rfl, hr, hb', by simpa using hpre, ?_, ht⟩
        have hmove : (p.byte :: pre ++ s.bytes).Perm (pre ++ (p.add s).bytes) :=
          List.perm_middle.symm.trans ((bytes_add_perm hp).symm.append_left pre)
        exact hmove.trans hperm

/-- The scan reads back the prefixes that the encoder wrote. -/
theorem scanPrefixes_bytes {t : Scan} (ht : t.oneOfGroup1 = true) {b : Byte} (hb : isLegacyPrefix b = false)
    (bs : List Byte) : scanPrefixes Scan.empty (t.bytes ++ b :: bs) = .done t (b :: bs) := by
  obtain ⟨l, k, g, o, a⟩ := t
  have hlock : ∀ r, scanPrefixes Scan.empty (optByte l 0xF0 ++ r) = scanPrefixes ⟨l, none, none, false, false⟩ r := by
    cases l <;> exact fun _ => rfl
  have hrep : ∀ r, scanPrefixes ⟨l, none, none, false, false⟩ (encodeRep k ++ r) =
      scanPrefixes ⟨l, k, none, false, false⟩ r := by
    obtain _ | (_ | _) := k
    · exact fun _ => rfl
    all_goals
      obtain rfl : l = false := by simpa [Scan.oneOfGroup1] using ht
      exact fun _ => rfl
  have hseg : ∀ r, scanPrefixes ⟨l, k, none, false, false⟩ (encodeSeg g ++ r) =
      scanPrefixes ⟨l, k, g, false, false⟩ r := by
    cases g with
    | none => exact fun _ => rfl
    | some n => exact scanPrefixes_byte _ (.seg n)
  have hopsz : ∀ r, scanPrefixes ⟨l, k, g, false, false⟩ (optByte o 0x66 ++ r) =
      scanPrefixes ⟨l, k, g, o, false⟩ r := by
    cases o <;> exact fun _ => rfl
  have hadsz : ∀ r, scanPrefixes ⟨l, k, g, o, false⟩ (optByte a 0x67 ++ r) = scanPrefixes ⟨l, k, g, o, a⟩ r := by
    cases a <;> exact fun _ => rfl
  simp only [Scan.bytes, List.append_assoc, hlock, hrep, hseg, hopsz, hadsz]
  exact scanPrefixes_of_not_legacy hb _ _

/-- Bytes that follow the prefixes the encoder wrote are read under those prefixes. -/
theorem decode_bytes_append (c : CodeCtx) {t : Scan} (ht : t.oneOfGroup1 = true) {b : Byte}
    (hb : isLegacyPrefix b = false) (bs : List Byte) :
    decode c (t.bytes ++ b :: bs) = decodeAfterPrefixes c t (b :: bs) := by
  rw [decode, scanPrefixes_bytes ht hb]

end Sys2Proof
end

section
/-! PROOFS. The decoder reads every instruction back from its own words (30_encoding.md R72 to R100). -/

namespace Sys2Proof

/-! ## REX (R80, R81) -/

/-- The REX byte of four bits. -/
def Rex.byte (r : Rex) : Byte :=
  0x4#4 ++ BitVec.ofBool r.w ++ BitVec.ofBool r.r ++ BitVec.ofBool r.x ++ BitVec.ofBool r.b

/-- The high half of a REX byte is 4. -/
theorem Rex.byte_high (r : Rex) : r.byte.extractLsb' 4 4 = 4#4 := by
  have h : ∀ w r x b : Bool, (Rex.byte ⟨w, r, x, b⟩).extractLsb' 4 4 = 4#4 := by decide
  exact h _ _ _ _

/-- The bits of a REX byte are read back. -/
theorem rexOfByte_byte (r : Rex) : rexOfByte r.byte = r := by
  have h : ∀ w r x b : Bool, rexOfByte (Rex.byte ⟨w, r, x, b⟩) = ⟨w, r, x, b⟩ := by decide
  exact h _ _ _ _

/-- A byte 40 to 4F is the REX byte of its bits. -/
theorem byte_rexOfByte : ∀ b : Byte, b.extractLsb' 4 4 = 4#4 → (rexOfByte b).byte = b := by decide

/-- No byte 40 to 4F is among the legacy prefixes. -/
theorem isLegacyPrefix_of_high : ∀ b : Byte, b.extractLsb' 4 4 = 4#4 → isLegacyPrefix b = false := by decide

/-! ## Opcodes after legacy prefixes and REX -/

/-- The opcode bytes that may follow the prefixes of a non-VEX row (R94). -/
def legacyOpcodes : List Byte := [0x0F, 0xF9, 0xFD, 0xFB, 0xAA, 0xAB]

/-- An opcode byte is not among the prefixes of any kind. -/
theorem legacyOpcodes_not_prefix : ∀ op ∈ legacyOpcodes,
    isLegacyPrefix op = false ∧ op.extractLsb' 4 4 ≠ 4#4 ∧ ¬(op = 0xC4 ∨ op = 0xC5) := by decide

/-- A byte that begins neither REX nor VEX is the opcode. -/
theorem decodeAfterPrefixes_opcode {c : CodeCtx} {b : Byte} (h4 : b.extractLsb' 4 4 ≠ 4#4) (hv : ¬(b = 0xC4 ∨ b = 0xC5))
    (t : Scan) (bs : List Byte) : decodeAfterPrefixes c t (b :: bs) = decodeOpcode c t none b bs := by
  rw [decodeAfterPrefixes.eq_def]
  exact (if_neg fun h => h4 h.2).trans (if_neg hv)

/-- In 64-bit mode a byte 40 to 4F is REX. -/
theorem decodeAfterPrefixes_rex {c : CodeCtx} {b : Byte} (hm : c.m64 = true) (h4 : b.extractLsb' 4 4 = 4#4) (t : Scan)
    (bs : List Byte) : decodeAfterPrefixes c t (b :: bs) = decodeAfterRex c t (rexOfByte b) bs := by
  rw [decodeAfterPrefixes.eq_def]
  exact if_pos ⟨hm, h4⟩

/-- The legacy prefixes of an instruction, F2 or F3 among them, as a scan. -/
def Pfx.scan (p : Pfx) (rep : Option Rep) : Scan := ⟨p.lock, rep, p.seg, p.opsz, p.adsz⟩

/-- Without F2 and F3, or without LOCK, there is at most one of group 1. -/
theorem oneOfGroup1_scan_none (p : Pfx) : (p.scan none).oneOfGroup1 = true := by simp [Scan.oneOfGroup1, Pfx.scan]

theorem oneOfGroup1_scan_of_unlocked {p : Pfx} (h : p.lock = false) (rep : Option Rep) :
    (p.scan rep).oneOfGroup1 = true := by simp [Scan.oneOfGroup1, Pfx.scan, h]

/-- The prefixes of an instruction are those of its scan, then REX. -/
theorem encodePfx_eq (rep : Option Rep) (p : Pfx) : encodePfx rep p = (p.scan rep).bytes ++ encodeRex p.rex := by
  simp [encodePfx, Scan.bytes, Pfx.scan]

/-- After the prefixes that an instruction may have, the opcode is read under just these. -/
theorem decode_encodePfx {c : CodeCtx} {p : Pfx} {rep : Option Rep} (hp : p.wellFormed c = true)
    (hg : (p.scan rep).oneOfGroup1 = true) {op : Byte} (hop : op ∈ legacyOpcodes) (bs : List Byte) :
    decode c (encodePfx rep p ++ op :: bs) = decodeOpcode c (p.scan rep) p.rex op bs := by
  obtain ⟨hl, h4, hv⟩ := legacyOpcodes_not_prefix op hop
  rw [encodePfx_eq, List.append_assoc]
  cases hr : p.rex with
  | none =>
    rw [encodeRex, List.nil_append, decode_bytes_append c hg hl, decodeAfterPrefixes_opcode h4 hv]
  | some r =>
    have hm : c.m64 = true := by simpa [Pfx.wellFormed, hr] using hp
    have hb := r.byte_high
    change decode c ((p.scan rep).bytes ++ r.byte :: op :: bs) = _
    rw [decode_bytes_append c hg (isLegacyPrefix_of_high _ hb), decodeAfterPrefixes_rex hm hb, decodeAfterRex, hl,
      if_neg Bool.false_ne_true, if_neg hv, rexOfByte_byte]

/-! ## VEX (R90 to R92) -/

/-- The last byte of VEX: R (two-byte form) or W (three-byte form), vvvv inverted, L, pp. -/
def vexLastByte (hi : Bool) (vvvv : BitVec 4) (l : Bool) (pp : BitVec 2) : Byte :=
  BitVec.ofBool hi ++ ~~~vvvv ++ BitVec.ofBool l ++ pp

/-- The middle byte of three-byte VEX: R, X, B inverted, and the map 0F. -/
def vexMapByte (r x b : Bool) : Byte := BitVec.ofBool (!r) ++ BitVec.ofBool (!x) ++ BitVec.ofBool (!b) ++ 0x01#5

/-- The fields of the last byte are read back. -/
theorem vexLastByte_fields : ∀ (hi : Bool) (vvvv : BitVec 4) (l : Bool) (pp : BitVec 2),
    (vexLastByte hi vvvv l pp).getLsbD 7 = hi ∧ ~~~((vexLastByte hi vvvv l pp).extractLsb' 3 4) = vvvv ∧
      (vexLastByte hi vvvv l pp).getLsbD 2 = l ∧ (vexLastByte hi vvvv l pp).extractLsb' 0 2 = pp := by decide

/-- Bits 7:6 of the last byte. -/
theorem vexLastByte_high : ∀ (hi : Bool) (vvvv : BitVec 4) (l : Bool) (pp : BitVec 2),
    (vexLastByte hi vvvv l pp).extractLsb' 6 2 = 3#2 ↔ hi = true ∧ vvvv.getLsbD 3 = false := by decide

/-- Every byte is the last byte of its fields. -/
theorem vexLastByte_of_fields : ∀ b : Byte,
    vexLastByte (b.getLsbD 7) (~~~(b.extractLsb' 3 4)) (b.getLsbD 2) (b.extractLsb' 0 2) = b := by decide

/-- The fields of the middle byte are read back. -/
theorem vexMapByte_fields : ∀ r x b : Bool,
    (vexMapByte r x b).extractLsb' 0 5 = 1#5 ∧ (!(vexMapByte r x b).getLsbD 7) = r ∧
      (!(vexMapByte r x b).getLsbD 6) = x ∧ (!(vexMapByte r x b).getLsbD 5) = b := by decide

/-- Bits 7:6 of the middle byte. -/
theorem vexMapByte_high : ∀ r x b : Bool, (vexMapByte r x b).extractLsb' 6 2 = 3#2 ↔ r = false ∧ x = false := by decide

/-- A byte that names the map 0F is the middle byte of its fields. -/
theorem vexMapByte_of_fields : ∀ b : Byte, b.extractLsb' 0 5 = 1#5 →
    vexMapByte (!b.getLsbD 7) (!b.getLsbD 6) (!b.getLsbD 5) = b := by decide

/-- The legacy prefixes of a VEX form as a scan. -/
def Vex.scan (v : Vex) : Scan := ⟨false, none, v.seg, false, v.adsz⟩

/-- The bytes of VEX proper. -/
def Vex.fieldBytes (v : Vex) (pp : BitVec 2) : List Byte :=
  if v.three then [0xC4, vexMapByte v.r v.x v.b, vexLastByte v.w v.vvvv v.l pp]
  else [0xC5, vexLastByte (!v.r) v.vvvv v.l pp]

/-- The bytes before the opcode of a VEX form are those of its scan, then VEX proper. -/
theorem encodeVex_eq (v : Vex) (pp : BitVec 2) : encodeVex v pp = v.scan.bytes ++ v.fieldBytes pp := by
  simp only [Scan.bytes, List.append_assoc]
  rfl

/-- C4 and C5 are not among the prefixes of another kind. -/
theorem vex_not_prefix : ∀ b : Byte, b = 0xC4 ∨ b = 0xC5 → isLegacyPrefix b = false ∧ b.extractLsb' 4 4 ≠ 4#4 := by
  decide

/-- C4 or C5 begins VEX in 64-bit mode, and outside it when bits 7:6 of the next byte are 11 (R91). -/
theorem decodeAfterPrefixes_vex {c : CodeCtx} {b b1 : Byte} (hb : b = 0xC4 ∨ b = 0xC5)
    (h : c.m64 = false → b1.extractLsb' 6 2 = 3#2) (t : Scan) (bs : List Byte) :
    decodeAfterPrefixes c t (b :: b1 :: bs) = decodeVex c t (b = 0xC4) (b1 :: bs) := by
  rw [decodeAfterPrefixes.eq_def]
  refine (if_neg fun h4 => (vex_not_prefix b hb).2 h4.2).trans ((if_pos hb).trans ?_)
  cases hm : c.m64 with
  | true => rfl
  | false => exact if_pos (h hm)

/-- The two-byte form is read under the fields of its one byte. -/
theorem decodeVex2_vexLastByte (c : CodeCtx) (s : Scan) (r : Bool) (vvvv : BitVec 4) (l : Bool) (pp : BitVec 2)
    (bs : List Byte) : decodeVex2 c s (vexLastByte (!r) vvvv l pp :: bs) =
      decodeVexOpcode c ⟨s.seg, s.adsz, false, r, false, false, false, vvvv, l⟩ pp bs := by
  obtain ⟨h7, hvvvv, h2, hpp⟩ := vexLastByte_fields (!r) vvvv l pp
  rw [decodeVex2, h7, hvvvv, h2, hpp, Bool.not_not]

/-- The three-byte form is read under the fields of its two bytes. -/
theorem decodeVex3_vexBytes (c : CodeCtx) (s : Scan) (r x b w : Bool) (vvvv : BitVec 4) (l : Bool) (pp : BitVec 2)
    (bs : List Byte) : decodeVex3 c s (vexMapByte r x b :: vexLastByte w vvvv l pp :: bs) =
      decodeVexOpcode c ⟨s.seg, s.adsz, true, r, x, b, w, vvvv, l⟩ pp bs := by
  obtain ⟨h7, hvvvv, h2, hpp⟩ := vexLastByte_fields w vvvv l pp
  obtain ⟨hmap, hr, hx, hb⟩ := vexMapByte_fields r x b
  rw [decodeVex3, h7, hvvvv, h2, hpp, hr, hx, hb]
  exact if_neg (not_not.2 hmap)

/-- After the VEX bytes of a form, the opcode is read under its fields. -/
theorem decode_encodeVex {c : CodeCtx} {v : Vex} (hv : v.wellFormed c = true) (pp : BitVec 2) (bs : List Byte) :
    decode c (encodeVex v pp ++ bs) = decodeVexOpcode c v pp bs := by
  obtain ⟨seg, adsz, three, r, x, b, w, vvvv, l⟩ := v
  rw [encodeVex_eq, List.append_assoc]
  cases three with
  | true =>
    have hhigh : c.m64 = false → (vexMapByte r x b).extractLsb' 6 2 = 3#2 := fun hm => by
      rw [vexMapByte_high]
      simpa [Vex.wellFormed, hm] using hv
    exact (decode_bytes_append c rfl (by decide) _).trans
      ((decodeAfterPrefixes_vex (.inl rfl) hhigh _ _).trans (decodeVex3_vexBytes ..))
  | false =>
    obtain ⟨⟨⟨rfl, rfl⟩, rfl⟩, hm⟩ : ((x = false ∧ b = false) ∧ w = false) ∧
        (c.m64 = true ∨ (r = false ∧ x = false) ∧ vvvv.getLsbD 3 = false) := by simpa [Vex.wellFormed] using hv
    have hhigh : c.m64 = false → (vexLastByte (!r) vvvv l pp).extractLsb' 6 2 = 3#2 := fun hf => by
      rw [vexLastByte_high]
      simpa [hf] using hm
    exact (decode_bytes_append c rfl (by decide) _).trans
      ((decodeAfterPrefixes_vex (.inr rfl) hhigh _ _).trans (decodeVex2_vexLastByte ..))

/-! ## Rows with a ModR/M byte -/

/-- When the operand of 0F 00 is read (step 4 of R100); below the same for 0F 01, 0F AE and VEX AE. -/
theorem twoByteStop_str {rep : Option Rep} {p : Pfx} {f : ModRM} :
    twoByteStop rep p 0x00 f = none ↔ f.reg = 1 ∧ rep = none := by
  grind [twoByteStop, Option.isSome_iff_ne_none]

theorem twoByteStop_smsw {rep : Option Rep} {p : Pfx} {f : ModRM} :
    twoByteStop rep p 0x01 f = none ↔ f.reg = 4 ∧ rep = none := by
  grind [twoByteStop, Option.isSome_iff_ne_none]

theorem twoByteStop_stmxcsr {rep : Option Rep} {p : Pfx} {f : ModRM} :
    twoByteStop rep p 0xAE f = none ↔ f.reg = 3 ∧ f.mod ≠ 3 ∧ p.opsz = false ∧ rep = none := by
  grind [twoByteStop, Option.isSome_iff_ne_none]

theorem vexStoreStop_eq_none {v : Vex} {pp : BitVec 2} {f : ModRM} :
    vexStoreStop v pp f = none ↔ f.reg = 3 ∧ f.mod ≠ 3 ∧ pp = 0 ∧ v.l = false ∧ v.vvvv = 0 := by
  grind [vexStoreStop]

/-- An operand that nothing stops is read back under the row that its conditions allow. -/
theorem withModRM_encodeRM {a : AddrSize} {stop : ModRM → Option DecodeResult}
    {row : BitVec 3 → RM → List Byte → DecodeResult} {reg : BitVec 3} {rm : RM} (hs : stop (rm.fields reg) = none)
    (hrm : rm.wellFormed a = true) (rest : List Byte) :
    withModRM a stop row (encodeRM reg rm ++ rest) = row reg rm rest := by
  have ht : takeRM a (rm.fields reg) (rm.tailBytes ++ rest) = some (rm, rest) :=
    takeRM_eq_some.2 ⟨hrm, by rw [RM.fields_reg], rfl⟩
  have hf : modRMOfByte (byteOfFields (rm.fields reg).mod (rm.fields reg).reg (rm.fields reg).rm) = rm.fields reg :=
    modRMOfByte_byteOfFields _ _ _
  rw [encodeRM_eq, List.cons_append, withModRM, hf]
  simp only [hs, ht, RM.fields_reg]

/-- A two-byte row whose conditions are met is read back from the words that the encoder writes. -/
theorem decode_twoByte {c : CodeCtx} {p : Pfx} {rep : Option Rep} {op : Byte} {reg : BitVec 3} {rm : RM}
    (hp : p.wellFormed c = true) (hg : (p.scan rep).oneOfGroup1 = true)
    (hop : op = 0x00 ∨ op = 0x01 ∨ op = 0x51 ∨ op = 0xAE) (h51 : p.opsz = true → rep = none)
    (hs : twoByteStop rep p op (rm.fields reg) = none) (hrm : rm.wellFormed (addrSize c p.adsz) = true)
    (rest : List Byte) :
    decode c (encodeLegacy rep p [0x0F, op] (encodeRM reg rm) ++ rest) = twoByteRow c rep p op reg rm rest := by
  have hno : ¬(op = 0x51 ∧ p.opsz = true ∧ rep.isSome = true) := fun ⟨_, ho, hr⟩ => by simp [h51 ho] at hr
  rw [encodeLegacy, List.append_assoc]
  calc decode c (encodePfx rep p ++ 0x0F :: op :: (encodeRM reg rm ++ rest))
      = decodeTwoByte c rep p (op :: (encodeRM reg rm ++ rest)) := decode_encodePfx hp hg (by decide) _
    _ = withModRM (addrSize c p.adsz) (twoByteStop rep p op) (twoByteRow c rep p op) (encodeRM reg rm ++ rest) := by
      rw [decodeTwoByte, if_neg hno, if_pos hop]
    _ = twoByteRow c rep p op reg rm rest := withModRM_encodeRM hs hrm rest

/-- A row of one opcode byte is read back. -/
theorem decode_oneByte {c : CodeCtx} {p : Pfx} {op : Byte} (hp : p.wellFormed c = true) (hop : op ∈ legacyOpcodes)
    (rest : List Byte) :
    decode c (encodeLegacy none p [op] [] ++ rest) = decodeOpcode c (p.scan none) p.rex op rest := by
  rw [encodeLegacy, List.append_assoc]
  exact decode_encodePfx hp (oneOfGroup1_scan_none p) hop rest

/-- A VEX square root whose vvvv is not reserved or is 1111b is read back. -/
theorem decode_vexSqrt {c : CodeCtx} {v : Vex} {pp : BitVec 2} {rm : RM} (hv : v.wellFormed c = true)
    (hres : pp = 0 ∨ pp = 1 → v.vvvv = 0) (hrm : rm.wellFormed (addrSize c v.adsz) = true) (reg : BitVec 3)
    (rest : List Byte) :
    decode c (encodeVex v pp ++ (0x51 :: encodeRM reg rm) ++ rest) = .ok (vexSqrtRow v pp reg rm) rest := by
  rw [List.append_assoc, decode_encodeVex hv, List.cons_append, decodeVexOpcode, if_pos rfl,
    if_neg fun h => h.2 (hres h.1)]
  exact withModRM_encodeRM rfl hrm rest

/-- VSTMXCSR is read back. -/
theorem decode_vexStore {c : CodeCtx} {v : Vex} {m : MemForm} (hv : v.wellFormed c = true) (hl : v.l = false)
    (hvvvv : v.vvvv = 0) (hm : m.wellFormed (addrSize c v.adsz) = true) (rest : List Byte) :
    decode c (encodeVex v 0 ++ (0xAE :: encodeRM 3 (.mem m)) ++ rest) = .ok (.vstmxcsr v m) rest := by
  have hs : vexStoreStop v 0 ((RM.mem m).fields 3) = none :=
    vexStoreStop_eq_none (f := (RM.mem m).fields 3) |>.2 ⟨rfl, m.modField_ne_three, rfl, hl, hvvvv⟩
  rw [List.append_assoc, decode_encodeVex hv]
  exact withModRM_encodeRM hs hm rest

/-! ## The obligation -/

/-- Settles O1, row by row: each layer of the decoder undoes the layer of the encoder. -/
theorem decodeReadsEncodeBack : Obligations.DecodeReadsEncodeBack := by
  intro c i rest h
  cases i with
  | smswRm16 p rm | smswR32M16 p rm | smswR64M16 p rm =>
    simp only [Instr.wellFormed, Bool.and_eq_true, beq_iff_eq] at h
    obtain ⟨⟨hp, hsize⟩, hrm⟩ := h
    have hs : twoByteStop none p 0x01 (rm.fields 4) = none := twoByteStop_smsw.2 ⟨RM.fields_reg 4 rm, rfl⟩
    refine (decode_twoByte hp (oneOfGroup1_scan_none p) (by decide) (fun _ => rfl) hs hrm rest).trans ?_
    simp [twoByteRow, smswRow, hsize, Instr.canonical]
  | sqrtpd p reg rm | sqrtps p reg rm =>
    simp only [Instr.wellFormed, Bool.and_eq_true, Bool.not_eq_true'] at h
    obtain ⟨⟨hp, ho⟩, hrm⟩ := h
    refine (decode_twoByte hp (oneOfGroup1_scan_none p) (by decide) (fun _ => rfl) rfl hrm rest).trans ?_
    simp [twoByteRow, sqrtRow, ho, Instr.canonical]
  | sqrtsd p reg rm | sqrtss p reg rm =>
    simp only [Instr.wellFormed, Bool.and_eq_true, Bool.not_eq_true'] at h
    obtain ⟨⟨⟨hp, ho⟩, hl⟩, hrm⟩ := h
    exact decode_twoByte hp (oneOfGroup1_scan_of_unlocked hl _) (by decide) (by simp [ho]) rfl hrm rest
  | vsqrtpdXmm v reg rm | vsqrtpdYmm v reg rm | vsqrtpsXmm v reg rm | vsqrtpsYmm v reg rm =>
    simp only [Instr.wellFormed, Bool.and_eq_true, Bool.not_eq_true', beq_iff_eq] at h
    obtain ⟨⟨⟨hv, hl⟩, hvvvv⟩, hrm⟩ := h
    refine (decode_vexSqrt hv (fun _ => hvvvv) hrm reg rest).trans ?_
    simp [vexSqrtRow, hl, Instr.canonical]
  | vsqrtsd v reg rm | vsqrtss v reg rm =>
    simp only [Instr.wellFormed, Bool.and_eq_true] at h
    obtain ⟨hv, hrm⟩ := h
    exact decode_vexSqrt hv (fun h => absurd h (by decide)) hrm reg rest
  | stc p | std p | sti p | stosM8 p | stosb p =>
    exact decode_oneByte h (by decide) rest
  | stosM16 p | stosM32 p | stosM64 p | stosw p | stosd p | stosq p =>
    simp only [Instr.wellFormed, Bool.and_eq_true, beq_iff_eq] at h
    obtain ⟨hp, hsize⟩ := h
    refine (decode_oneByte hp (by decide) rest).trans ?_
    change DecodeResult.ok (stosRow c p) rest = _
    simp [stosRow, hsize, Instr.canonical]
  | stmxcsr p m =>
    simp only [Instr.wellFormed, Bool.and_eq_true, Bool.not_eq_true'] at h
    obtain ⟨⟨hp, ho⟩, hm⟩ := h
    have hs : twoByteStop none p 0xAE ((RM.mem m).fields 3) = none :=
      twoByteStop_stmxcsr (f := (RM.mem m).fields 3) |>.2 ⟨rfl, m.modField_ne_three, ho, rfl⟩
    exact decode_twoByte hp (oneOfGroup1_scan_none p) (by decide) (fun _ => rfl) hs hm rest
  | vstmxcsr v m =>
    simp only [Instr.wellFormed, Bool.and_eq_true, Bool.not_eq_true', beq_iff_eq] at h
    obtain ⟨⟨⟨hv, hl⟩, hvvvv⟩, hm⟩ := h
    exact decode_vexStore hv hl hvvvv hm rest
  | str p rm =>
    simp only [Instr.wellFormed, Bool.and_eq_true] at h
    obtain ⟨hp, hrm⟩ := h
    have hs : twoByteStop none p 0x00 (rm.fields 1) = none := twoByteStop_str.2 ⟨RM.fields_reg 1 rm, rfl⟩
    exact decode_twoByte hp (oneOfGroup1_scan_none p) (by decide) (fun _ => rfl) hs hrm rest

end Sys2Proof
end

section
/-! PROOFS. Whatever the decoder answers is encodable, and the bytes it took are its words (30_encoding.md R100,
R104). -/

namespace Sys2Proof

/-! ## Answers that stand for the bytes read -/

/-- The answer, if it is an instruction, is one that the tables have, and its words are `front`, then the bytes that it
took from `bs`. -/
def DecodeResult.Reads (c : CodeCtx) (front bs : List Byte) : DecodeResult → Prop
  | .ok i rest => i.wellFormed c = true ∧ i.canonical = i ∧ ∃ tail, bs = tail ++ rest ∧ encode i = front ++ tail
  | _ => True

/-- An instruction whose words are those read so far. -/
theorem reads_ok {c : CodeCtx} {front : List Byte} {i : Instr} (hwf : i.wellFormed c = true) (hcan : i.canonical = i)
    (henc : encode i = front) (rest : List Byte) : (DecodeResult.ok i rest).Reads c front rest :=
  ⟨hwf, hcan, [], rfl, by rw [henc, List.append_nil]⟩

/-- Bytes read by the layer above are bytes read. -/
theorem DecodeResult.Reads.prepend {c : CodeCtx} {front mid bs : List Byte} {r : DecodeResult}
    (h : r.Reads c (front ++ mid) bs) : r.Reads c front (mid ++ bs) := by
  cases r with
  | ok i rest =>
    obtain ⟨hwf, hcan, tail, rfl, henc⟩ := h
    exact ⟨hwf, hcan, mid ++ tail, (List.append_assoc ..).symm, by rw [henc, List.append_assoc]⟩
  | ud | refused _ | truncated => trivial

/-! ## Rows with a ModR/M byte -/

/-- A form with a ModR/M byte takes the bytes of its operand. -/
theorem withModRM_reads {c : CodeCtx} {a : AddrSize} {stop : ModRM → Option DecodeResult}
    {row : BitVec 3 → RM → List Byte → DecodeResult} {front : List Byte} (bs : List Byte)
    (hs : ∀ f i rest, stop f ≠ some (.ok i rest))
    (hrow : ∀ reg rm rest, rm.wellFormed a = true → stop (rm.fields reg) = none →
      (row reg rm rest).Reads c (front ++ encodeRM reg rm) rest) :
    (withModRM a stop row bs).Reads c front bs := by
  cases h : withModRM a stop row bs with
  | ok i rest =>
    obtain ⟨b, tl, rm, r, rfl, hst, ht, hr⟩ := (Machine.withModRM_eq_ok fun f => hs f i rest).1 h
    obtain ⟨hrm, hf, rfl⟩ := takeRM_eq_some.1 ht
    have hb : encodeRM (modRMOfByte b).reg rm = b :: rm.tailBytes := by
      rw [encodeRM_eq, hf, byteOfFields_modRMOfByte]
    have hreads := hrow (modRMOfByte b).reg rm r hrm (by rw [hf, hst])
    rw [hr, hb] at hreads
    exact hreads.prepend
  | ud | refused _ | truncated => trivial

/-- What stops a form before its operand is read is never an instruction. -/
theorem twoByteStop_ne_ok (rep : Option Rep) (p : Pfx) (op : Byte) (f : ModRM) (i : Instr) (rest : List Byte) :
    twoByteStop rep p op f ≠ some (.ok i rest) := by
  unfold twoByteStop
  split_ifs <;> nofun

theorem vexStoreStop_ne_ok (v : Vex) (pp : BitVec 2) (f : ModRM) (i : Instr) (rest : List Byte) :
    vexStoreStop v pp f ≠ some (.ok i rest) := by
  unfold vexStoreStop
  split_ifs <;> nofun

/-- The row of SMSW is the one of its operand size. -/
theorem smswRow_reads {c : CodeCtx} {p : Pfx} {rm : RM} (hp : p.wellFormed c = true)
    (hrm : rm.wellFormed (addrSize c p.adsz) = true) (rest : List Byte) :
    (DecodeResult.ok (smswRow c p rm) rest).Reads c (encodeLegacy none p [0x0F, 0x01] (encodeRM 4 rm)) rest := by
  unfold smswRow
  cases hsize : operandSize c p.opsz p.w with
  | o16 | o32 | o64 => exact reads_ok (by simp [Instr.wellFormed, hp, hsize, hrm]) rfl rfl rest

/-- The row of STOS is the one of its operand size. -/
theorem stosRow_reads {c : CodeCtx} {p : Pfx} (hp : p.wellFormed c = true) (rest : List Byte) :
    (DecodeResult.ok (stosRow c p) rest).Reads c (encodeLegacy none p [0xAB] []) rest := by
  unfold stosRow
  cases hsize : operandSize c p.opsz p.w with
  | o16 | o32 | o64 => exact reads_ok (by simp [Instr.wellFormed, hp, hsize]) rfl rfl rest

/-- The row of 0F 51 is the one of 66, F2 or F3, of which there is at most one. -/
theorem sqrtRow_reads {c : CodeCtx} {p : Pfx} {rep : Option Rep} {rm : RM} (hp : p.wellFormed c = true)
    (hg : (p.scan rep).oneOfGroup1 = true) (h51 : p.opsz = true → rep = none)
    (hrm : rm.wellFormed (addrSize c p.adsz) = true) (reg : BitVec 3) (rest : List Byte) :
    (DecodeResult.ok (sqrtRow rep p reg rm) rest).Reads c (encodeLegacy rep p [0x0F, 0x51] (encodeRM reg rm)) rest := by
  cases rep with
  | none =>
    cases ho : p.opsz with
    | true | false =>
      simp only [sqrtRow, ho]
      exact reads_ok (by simp [Instr.wellFormed, hp, ho, hrm]) rfl rfl rest
  | some k =>
    have ho : p.opsz = false := Bool.eq_false_iff.2 fun h => nomatch h51 h
    have hl : p.lock = false := by simpa [Scan.oneOfGroup1, Pfx.scan] using hg
    cases k with
    | repne | rep => exact reads_ok (by simp [Instr.wellFormed, sqrtRow, hp, ho, hl, hrm]) rfl rfl rest

/-- The rows of 0F `op` under the conditions that let their operand be read. -/
theorem twoByteRow_reads {c : CodeCtx} {p : Pfx} {rep : Option Rep} {op : Byte} {reg : BitVec 3} {rm : RM}
    (hp : p.wellFormed c = true) (hg : (p.scan rep).oneOfGroup1 = true) (h51 : op = 0x51 → p.opsz = true → rep = none)
    (hop : op = 0x00 ∨ op = 0x01 ∨ op = 0x51 ∨ op = 0xAE) (hs : twoByteStop rep p op (rm.fields reg) = none)
    (hrm : rm.wellFormed (addrSize c p.adsz) = true) (rest : List Byte) :
    (twoByteRow c rep p op reg rm rest).Reads c (encodeLegacy rep p [0x0F, op] (encodeRM reg rm)) rest := by
  obtain rfl | rfl | rfl | rfl := hop
  · obtain ⟨rfl, rfl⟩ : reg = 1 ∧ rep = none := by simpa using twoByteStop_str.1 hs
    exact reads_ok (by simp [Instr.wellFormed, hp, hrm]) rfl rfl rest
  · obtain ⟨rfl, rfl⟩ : reg = 4 ∧ rep = none := by simpa using twoByteStop_smsw.1 hs
    exact smswRow_reads hp hrm rest
  · exact sqrtRow_reads hp hg (h51 rfl) hrm reg rest
  · obtain ⟨rfl, hmod, ho, rfl⟩ : reg = 3 ∧ (rm.fields reg).mod ≠ 3#2 ∧ p.opsz = false ∧ rep = none := by
      simpa using twoByteStop_stmxcsr.1 hs
    cases rm with
    | reg n => exact absurd rfl hmod
    | mem m =>
      have hm : m.wellFormed (addrSize c p.adsz) = true := hrm
      exact reads_ok (by simp [Instr.wellFormed, hp, ho, hm]) rfl rfl rest

/-! ## The layers of the decoder, innermost first -/

theorem decodeTwoByte_reads {c : CodeCtx} {p : Pfx} {rep : Option Rep} (hp : p.wellFormed c = true)
    (hg : (p.scan rep).oneOfGroup1 = true) (bs : List Byte) :
    (decodeTwoByte c rep p bs).Reads c (encodePfx rep p ++ [0x0F]) bs := by
  cases bs with
  | nil => trivial
  | cons op bs =>
    rw [decodeTwoByte]
    split_ifs with h51 hop
    · trivial
    · refine (withModRM_reads bs (twoByteStop_ne_ok rep p op) fun reg rm rest hrm hs => ?_).prepend (mid := [op])
      have h51 : op = 0x51 → p.opsz = true → rep = none := fun h5 ho => by simpa [h5, ho] using h51
      simpa [encodeLegacy] using twoByteRow_reads hp hg h51 hop hs hrm rest
    · trivial

theorem decodeOpcode_reads {c : CodeCtx} {p : Pfx} {rep : Option Rep} (hp : p.wellFormed c = true)
    (hg : (p.scan rep).oneOfGroup1 = true) (op : Byte) (bs : List Byte) :
    (decodeOpcode c (p.scan rep) p.rex op bs).Reads c (encodePfx rep p) (op :: bs) := by
  refine DecodeResult.Reads.prepend (mid := [op]) ?_
  by_cases h0F : op = 0x0F
  · subst h0F
    exact decodeTwoByte_reads hp hg bs
  cases rep with
  | some k =>
    simp only [decodeOpcode, if_neg h0F, Pfx.scan, Option.isSome_some, if_true]
    split_ifs <;> trivial
  | none =>
    have hone {i : Instr} (hwf : i.wellFormed c = true) (hcan : i.canonical = i)
        (henc : encode i = encodeLegacy none p [op] []) :
        (DecodeResult.ok i bs).Reads c (encodePfx none p ++ [op]) bs := reads_ok hwf hcan henc bs
    rw [decodeOpcode, if_neg h0F]
    by_cases hflag : op = 0xF9 ∨ op = 0xFD ∨ op = 0xFB
    · rw [if_pos hflag]
      obtain rfl | rfl | rfl := hflag <;> exact hone hp rfl rfl
    · rw [if_neg hflag]
      split_ifs with hstos hrep hAA
      · trivial
      · subst hAA
        exact hone hp rfl rfl
      · obtain rfl := hstos.resolve_left hAA
        exact stosRow_reads hp bs
      · trivial

/-- The rows of VEX 51 under the condition that vvvv is 1111b where it is reserved. -/
theorem vexSqrtRow_reads {c : CodeCtx} {v : Vex} {pp : BitVec 2} {rm : RM} (hv : v.wellFormed c = true)
    (hres : pp = 0 ∨ pp = 1 → v.vvvv = 0) (hrm : rm.wellFormed (addrSize c v.adsz) = true) (reg : BitVec 3)
    (rest : List Byte) : (DecodeResult.ok (vexSqrtRow v pp reg rm) rest).Reads c
      (encodeVex v pp ++ (0x51 :: encodeRM reg rm)) rest := by
  by_cases hpp : pp = 0 ∨ pp = 1
  · have hvvvv := hres hpp
    obtain rfl | rfl := hpp
    all_goals
      cases hl : v.l <;> simp only [vexSqrtRow, hl] <;>
        exact reads_ok (by simp [Instr.wellFormed, hv, hl, hvvvv, hrm]) rfl rfl rest
  · have hscalar : ∀ m : BitVec 2, ¬(m = 0 ∨ m = 1) → m = 2 ∨ m = 3 := by decide
    obtain rfl | rfl := hscalar pp hpp
    all_goals exact reads_ok (by simp [Instr.wellFormed, vexSqrtRow, hv, hrm]) rfl rfl rest

theorem vexStoreRow_reads {c : CodeCtx} {v : Vex} {pp : BitVec 2} {reg : BitVec 3} {rm : RM}
    (hv : v.wellFormed c = true) (hs : vexStoreStop v pp (rm.fields reg) = none)
    (hrm : rm.wellFormed (addrSize c v.adsz) = true) (rest : List Byte) :
    (vexStoreRow v reg rm rest).Reads c (encodeVex v pp ++ (0xAE :: encodeRM reg rm)) rest := by
  obtain ⟨hreg, hmod, rfl, hl, hvvvv⟩ := vexStoreStop_eq_none.1 hs
  cases rm with
  | reg n => exact absurd rfl hmod
  | mem m =>
    obtain rfl : reg = 3 := hreg
    have hm : m.wellFormed (addrSize c v.adsz) = true := hrm
    exact reads_ok (by simp [Instr.wellFormed, hv, hl, hvvvv, hm]) rfl rfl rest

theorem decodeVexOpcode_reads {c : CodeCtx} {v : Vex} (hv : v.wellFormed c = true) (pp : BitVec 2) (bs : List Byte) :
    (decodeVexOpcode c v pp bs).Reads c (encodeVex v pp) bs := by
  cases bs with
  | nil => trivial
  | cons op bs =>
    rw [decodeVexOpcode]
    split_ifs with h51 hres hAE
    · trivial
    · subst h51
      refine (withModRM_reads bs (by simp) fun reg rm rest hrm _ => ?_).prepend (mid := [0x51])
      have hvvvv : pp = 0 ∨ pp = 1 → v.vvvv = 0 := fun hpp => not_not.1 fun hne => hres ⟨hpp, hne⟩
      rw [List.append_assoc]
      exact vexSqrtRow_reads hv hvvvv hrm reg rest
    · subst hAE
      refine (withModRM_reads bs (vexStoreStop_ne_ok v pp) fun reg rm rest hrm hs => ?_).prepend (mid := [0xAE])
      rw [List.append_assoc]
      exact vexStoreRow_reads hv hs hrm rest
    · trivial

/-- The two-byte VEX form, told from LDS by the bits 7:6 that R91 asks for. -/
theorem decodeVex2_reads {c : CodeCtx} {seg : Option SegName} {adsz : Bool} {b1 : Byte}
    (h : c.m64 = false → b1.extractLsb' 6 2 = 3#2) (bs : List Byte) :
    (decodeVex2 c ⟨false, none, seg, false, adsz⟩ (b1 :: bs)).Reads c (Scan.bytes ⟨false, none, seg, false, adsz⟩)
      (0xC5 :: b1 :: bs) := by
  obtain ⟨r, vvvv, l, pp, rfl⟩ : ∃ r vvvv l pp, b1 = vexLastByte (!r) vvvv l pp :=
    ⟨!b1.getLsbD 7, _, _, _, by rw [Bool.not_not, vexLastByte_of_fields]⟩
  have hv : Vex.wellFormed c ⟨seg, adsz, false, r, false, false, false, vvvv, l⟩ = true := by
    cases hm : c.m64 with
    | true => simp [Vex.wellFormed, hm]
    | false => simpa [Vex.wellFormed, hm] using (vexLastByte_high _ _ _ _).1 (h hm)
  have hreads := decodeVexOpcode_reads hv pp bs
  rw [encodeVex_eq] at hreads
  rw [decodeVex2_vexLastByte]
  exact hreads.prepend

/-- The three-byte VEX form, told from LES by the bits 7:6 that R91 asks for. -/
theorem decodeVex3_reads {c : CodeCtx} {seg : Option SegName} {adsz : Bool} {b1 : Byte}
    (h : c.m64 = false → b1.extractLsb' 6 2 = 3#2) (bs : List Byte) :
    (decodeVex3 c ⟨false, none, seg, false, adsz⟩ (b1 :: bs)).Reads c (Scan.bytes ⟨false, none, seg, false, adsz⟩)
      (0xC4 :: b1 :: bs) := by
  cases bs with
  | nil => trivial
  | cons b2 bs =>
    by_cases hmap : b1.extractLsb' 0 5 = 1#5
    · obtain ⟨r, x, b, rfl⟩ : ∃ r x b, b1 = vexMapByte r x b := ⟨_, _, _, (vexMapByte_of_fields b1 hmap).symm⟩
      obtain ⟨w, vvvv, l, pp, rfl⟩ : ∃ w vvvv l pp, b2 = vexLastByte w vvvv l pp :=
        ⟨_, _, _, _, (vexLastByte_of_fields b2).symm⟩
      have hv : Vex.wellFormed c ⟨seg, adsz, true, r, x, b, w, vvvv, l⟩ = true := by
        cases hm : c.m64 with
        | true => simp [Vex.wellFormed, hm]
        | false => simpa [Vex.wellFormed, hm] using (vexMapByte_high _ _ _).1 (h hm)
      have hreads := decodeVexOpcode_reads hv pp bs
      rw [encodeVex_eq] at hreads
      rw [decodeVex3_vexBytes]
      exact hreads.prepend
    · rw [decodeVex3]
      split_ifs
      · trivial
      · contradiction

/-- The VEX bytes that an answer rests on are those that the encoder writes. -/
theorem decodeVex_reads {c : CodeCtx} {s : Scan} {b b1 : Byte} (hb : b = 0xC4 ∨ b = 0xC5)
    (h : c.m64 = false → b1.extractLsb' 6 2 = 3#2) (bs : List Byte) :
    (decodeVex c s (b = 0xC4) (b1 :: bs)).Reads c s.bytes (b :: b1 :: bs) := by
  obtain ⟨l, k, seg, o, adsz⟩ := s
  unfold decodeVex
  split_ifs with hbad h4
  · trivial
  all_goals obtain ⟨⟨rfl, rfl⟩, rfl⟩ : (l = false ∧ k = none) ∧ o = false := by simpa using hbad
  · obtain rfl : b = 0xC4 := of_decide_eq_true h4
    exact decodeVex3_reads h bs
  · obtain rfl : b = 0xC5 := hb.resolve_left fun h => h4 (decide_eq_true h)
    exact decodeVex2_reads h bs

/-- With nothing after C4 or C5 there is no instruction. -/
theorem decodeVex_nil (c : CodeCtx) (s : Scan) (three : Bool) (front bs : List Byte) :
    (decodeVex c s three []).Reads c front bs := by
  unfold decodeVex
  split_ifs <;> trivial

/-- An opcode directly after the legacy prefixes. -/
theorem decodeOpcode_noRex_reads {c : CodeCtx} {t : Scan} (ht : t.oneOfGroup1 = true) (op : Byte) (bs : List Byte) :
    (decodeOpcode c t none op bs).Reads c t.bytes (op :: bs) := by
  have hp : Pfx.wellFormed c ⟨t.lock, t.seg, t.opsz, t.adsz, none⟩ = true := by simp [Pfx.wellFormed]
  have hreads := decodeOpcode_reads hp ht op bs
  rw [encodePfx_eq] at hreads
  exact hreads.prepend

/-- An opcode after a REX byte, in 64-bit mode. -/
theorem decodeAfterRex_reads {c : CodeCtx} (hm : c.m64 = true) {t : Scan} (ht : t.oneOfGroup1 = true) {b : Byte}
    (hb : b.extractLsb' 4 4 = 4#4) (bs : List Byte) :
    (decodeAfterRex c t (rexOfByte b) bs).Reads c t.bytes (b :: bs) := by
  cases bs with
  | nil => trivial
  | cons op bs =>
    rw [decodeAfterRex]
    split_ifs
    · trivial
    · trivial
    · have hp : Pfx.wellFormed c ⟨t.lock, t.seg, t.opsz, t.adsz, some (rexOfByte b)⟩ = true := by
        simp [Pfx.wellFormed, hm]
      have hreads := decodeOpcode_reads hp ht op bs
      have hrex : encodeRex (some (rexOfByte b)) = [b] := congrArg (· :: []) (byte_rexOfByte b hb)
      rw [encodePfx_eq, hrex] at hreads
      exact hreads.prepend

/-- What the decoder answers after the legacy prefixes rests on their bytes in the encoder's order. -/
theorem decodeAfterPrefixes_reads {c : CodeCtx} {t : Scan} (ht : t.oneOfGroup1 = true) (b : Byte) (bs : List Byte) :
    (decodeAfterPrefixes c t (b :: bs)).Reads c t.bytes (b :: bs) := by
  rw [decodeAfterPrefixes.eq_def]
  dsimp only
  split_ifs with hrex hb hm
  · exact decodeAfterRex_reads hrex.1 ht hrex.2 bs
  · cases bs with
    | nil => exact decodeVex_nil ..
    | cons b1 tl => exact decodeVex_reads hb (fun hf => by simp [hf] at hm) tl
  · cases bs with
    | nil => trivial
    | cons b1 tl =>
      dsimp only
      split_ifs with h3
      · exact decodeVex_reads hb (fun _ => h3) tl
      · trivial
  · exact decodeOpcode_noRex_reads ht b bs

/-- Settles O2: the scan gives the prefixes up to their order, the layers after it the rest of the words. -/
theorem decodedIsEncodable : Obligations.DecodedIsEncodable := by
  intro c bs rest i h
  unfold decode at h
  cases hs : scanPrefixes Scan.empty bs with
  | repeated | truncated => simp [hs] at h
  | done t r =>
    rw [hs] at h
    obtain ⟨pre, b, tl, rfl, rfl, _, hpre, hperm, ht⟩ := scanPrefixes_eq_done hs rfl
    have hreads := decodeAfterPrefixes_reads (c := c) ht b tl
    rw [show decodeAfterPrefixes c t (b :: tl) = .ok i rest from h] at hreads
    obtain ⟨hwf, hcan, tail, htail, henc⟩ := hreads
    have hpp : pre.Perm t.bytes := by simpa [Scan.empty, Scan.bytes, optByte, encodeRep, encodeSeg] using hperm
    refine ⟨hwf, hcan, pre, t.bytes, tail, by rw [htail, List.append_assoc], henc, hpp, hpre, ?_⟩
    rw [instrLen, henc, List.length_append, List.length_append, hpp.length_eq]

end Sys2Proof
end

section
/-! PROOFS. How long the words are (30_encoding.md R72), and the bytes and instructions that are #UD (R75, R91, R92,
R101). -/

namespace Sys2Proof

/-! ## Lengths (R72) -/

theorem optByte_length (c : Bool) (b : Byte) : (optByte c b).length = c.toNat := by cases c <;> rfl

theorem encodeSeg_length_le (g : Option SegName) : (encodeSeg g).length ≤ 1 := by cases g <;> simp [encodeSeg]

theorem encodeRep_length (r : Option Rep) : (encodeRep r).length = r.isSome.toNat := by
  obtain _ | (_ | _) := r <;> rfl

theorem encodeRex_length_le (r : Option Rex) : (encodeRex r).length ≤ 1 := by cases r <;> simp [encodeRex]

/-- Prefixes are at most LOCK, F2 or F3, 66, and three more. -/
theorem encodePfx_length_le (rep : Option Rep) (p : Pfx) :
    (encodePfx rep p).length ≤ p.lock.toNat + rep.isSome.toNat + p.opsz.toNat + 3 := by
  have hseg := encodeSeg_length_le p.seg
  have hrex := encodeRex_length_le p.rex
  have hadsz := p.adsz.toNat_le
  simp only [encodePfx, List.length_append, optByte_length, encodeRep_length]
  omega

/-- VEX and what may precede it. -/
theorem encodeVex_length_le (v : Vex) (pp : BitVec 2) : (encodeVex v pp).length ≤ 5 := by
  have hseg := encodeSeg_length_le v.seg
  have hadsz := v.adsz.toNat_le
  simp only [encodeVex, List.length_append, optByte_length]
  split <;> simp only [List.length_cons, List.length_nil] <;> omega

/-- A displacement of up to `n` bytes. -/
theorem encodeDisp_length_le {w n : Nat} (hn : 1 ≤ n) (d : Disp w) : (encodeDisp n d).length ≤ n := by
  cases d <;> simp [encodeDisp, Machine.leBytes_length, hn]

/-- SIB byte and displacement. -/
theorem tailBytes_length_le (m : MemForm) : m.tailBytes.length ≤ 5 := by
  cases m with
  | mem16 _ d => exact (encodeDisp_length_le (n := 2) (by decide) d).trans (by decide)
  | memBase _ d => exact (encodeDisp_length_le (n := 4) (by decide) d).trans (by decide)
  | memSib _ _ _ d => exact Nat.succ_le_succ (encodeDisp_length_le (n := 4) (by decide) d)
  | mem16Abs _ | memDisp _ | memSibNoBase _ _ _ => simp [MemForm.tailBytes, Machine.leBytes_length]

/-- ModR/M byte, SIB byte and displacement. -/
theorem encodeRM_length_le (reg : BitVec 3) (rm : RM) : (encodeRM reg rm).length ≤ 6 := by
  rw [encodeRM_eq, List.length_cons]
  cases rm with
  | reg n => simp [RM.tailBytes]
  | mem m => exact Nat.succ_le_succ (tailBytes_length_le m)

/-- The length of the words of a non-VEX row, with at most one of 66, F2 and F3, and at most eight bytes that are no
prefixes. -/
theorem encodeLegacy_length {rep : Option Rep} {p : Pfx} {op tail : List Byte} (h : p.opsz = true → rep = none)
    (hop : 1 ≤ op.length) (hlen : op.length + tail.length ≤ 8) :
    1 ≤ (encodeLegacy rep p op tail).length ∧ (encodeLegacy rep p op tail).length ≤ 12 + p.lock.toNat := by
  have hpfx := encodePfx_length_le rep p
  have hone : rep.isSome.toNat + p.opsz.toNat ≤ 1 := by
    cases ho : p.opsz with
    | true => simp [h ho]
    | false => exact rep.isSome.toNat_le
  simp only [encodeLegacy, List.length_append]
  omega

/-- The length of the words of a two-byte row with ModR/M. -/
theorem encodeLegacy_twoByte_length {rep : Option Rep} {p : Pfx} (h : p.opsz = true → rep = none) (op : Byte)
    (reg : BitVec 3) (rm : RM) : 1 ≤ (encodeLegacy rep p [0x0F, op] (encodeRM reg rm)).length ∧
      (encodeLegacy rep p [0x0F, op] (encodeRM reg rm)).length ≤ 12 + p.lock.toNat :=
  encodeLegacy_length h (by simp) (Nat.add_le_add_left (encodeRM_length_le reg rm) 2)

/-- The length of the words of a row with ModR/M after VEX. -/
theorem encodeVex_row_length (v : Vex) (pp : BitVec 2) (op : Byte) (reg : BitVec 3) (rm : RM) :
    1 ≤ (encodeVex v pp ++ op :: encodeRM reg rm).length ∧ (encodeVex v pp ++ op :: encodeRM reg rm).length ≤ 12 := by
  have hvex := encodeVex_length_le v pp
  have hrm := encodeRM_length_le reg rm
  simp only [List.length_append, List.length_cons]
  omega

/-- Every instruction that has an encoding has 1 to 12 bytes, and one more with LOCK. -/
theorem instrLen_bounds {c : CodeCtx} {i : Instr} (h : i.wellFormed c = true) :
    1 ≤ instrLen i ∧ instrLen i ≤ 12 + (Machine.locked i).toNat := by
  cases i with
  | smswRm16 p rm | smswR32M16 p rm | smswR64M16 p rm | str p rm =>
    exact encodeLegacy_twoByte_length (fun _ => rfl) _ _ rm
  | sqrtpd p reg rm | sqrtps p reg rm => exact encodeLegacy_twoByte_length (fun _ => rfl) _ reg rm
  | stmxcsr p m => exact encodeLegacy_twoByte_length (fun _ => rfl) _ 3 (.mem m)
  | sqrtsd p reg rm | sqrtss p reg rm =>
    simp only [Instr.wellFormed, Bool.and_eq_true, Bool.not_eq_true'] at h
    obtain ⟨⟨⟨_, ho⟩, _⟩, _⟩ := h
    exact encodeLegacy_twoByte_length (by simp [ho]) _ reg rm
  | vsqrtpdXmm v reg rm | vsqrtpdYmm v reg rm | vsqrtpsXmm v reg rm | vsqrtpsYmm v reg rm | vsqrtsd v reg rm
  | vsqrtss v reg rm => exact encodeVex_row_length v _ _ reg rm
  | vstmxcsr v m => exact encodeVex_row_length v 0 0xAE 3 (.mem m)
  | stc p | std p | sti p | stosM8 p | stosb p | stosM16 p | stosM32 p | stosM64 p | stosw p | stosd p | stosq p =>
    exact encodeLegacy_length (fun _ => rfl) (by simp) (by simp)

/-- Settles O3, from the lengths of prefixes, opcode and operand. -/
theorem instructionLengthBound : Obligations.InstructionLengthBound := fun c i h => by
  obtain ⟨hmin, hmax⟩ := instrLen_bounds h
  have hlock := (Machine.locked i).toNat_le
  refine ⟨hmin, by omega, fun hl => ?_⟩
  simpa [hl] using hmax

/-! ## VEX after F0, F2, F3, 66 or REX (R91, R92) -/

/-- A segment override is none of the prefixes that VEX forbids. -/
theorem segByte_allowed (g : SegName) :
    ¬(segByte g = 0xF0 ∨ segByte g = 0xF2 ∨ segByte g = 0xF3 ∨ segByte g = 0x66) := by
  cases g <;> decide

/-- A scan that has taken F0, F2, F3 or 66 holds it. -/
theorem forbidden_of_mem_bytes {t : Scan} {p : Byte} (hmem : p ∈ t.bytes)
    (hp : p = 0xF0 ∨ p = 0xF2 ∨ p = 0xF3 ∨ p = 0x66) : (t.lock || t.rep.isSome || t.opsz) = true := by
  by_contra hno
  obtain ⟨l, k, g, o, a⟩ := t
  obtain ⟨⟨rfl, rfl⟩, rfl⟩ : (l = false ∧ k = none) ∧ o = false := by simpa using hno
  obtain hseg | hadsz : p ∈ encodeSeg g ∨ p ∈ optByte a 0x67 := by
    simpa [Scan.bytes, optByte, encodeRep] using hmem
  · cases g with
    | none => cases hseg
    | some n =>
      obtain rfl : p = segByte n := by simpa [encodeSeg] using hseg
      exact segByte_allowed n hp
  · obtain ⟨-, rfl⟩ : a = true ∧ p = 0x67 := by simpa [optByte] using hadsz
    exact absurd hp (by decide)

/-- VEX under a scan that has taken one of these is #UD, whatever follows. -/
theorem decodeVex_of_forbidden {t : Scan} (ht : (t.lock || t.rep.isSome || t.opsz) = true) (c : CodeCtx) (three : Bool)
    (bs : List Byte) : decodeVex c t three bs = .ud := if_pos ht

/-- In 64-bit mode C4 or C5 is VEX, whatever follows (R91). -/
theorem decodeAfterPrefixes_vex64 {c : CodeCtx} (hm : c.m64 = true) {b : Byte} (hb : b = 0xC4 ∨ b = 0xC5) (t : Scan)
    (bs : List Byte) : decodeAfterPrefixes c t (b :: bs) = decodeVex c t (b = 0xC4) bs := by
  rw [decodeAfterPrefixes.eq_def]
  exact (if_neg fun h4 => (vex_not_prefix b hb).2 h4.2).trans ((if_pos hb).trans (if_pos hm))

/-- C4 or C5 after REX is #UD (R92). -/
theorem decodeAfterRex_vex {b : Byte} (hb : b = 0xC4 ∨ b = 0xC5) (c : CodeCtx) (t : Scan) (rex : Rex) (bs : List Byte) :
    decodeAfterRex c t rex (b :: bs) = .ud := by
  rw [decodeAfterRex, (vex_not_prefix b hb).1, if_neg Bool.false_ne_true, if_pos hb]

/-- Prefixes that a scan takes up to one byte stand in its result, and are taken up to any other. -/
theorem prefixes_of_scan {pre : List Byte} {b : Byte} {t : Scan}
    (h : scanPrefixes Scan.empty (pre ++ [b]) = .done t [b]) :
    pre.Perm t.bytes ∧ ∀ (c : CodeCtx) (y : Byte) (bs : List Byte), isLegacyPrefix y = false →
      decode c (pre ++ y :: bs) = decodeAfterPrefixes c t (y :: bs) := by
  obtain ⟨pre', _, _, happ, _, _, hpre, hperm, ht⟩ := scanPrefixes_eq_done h rfl
  obtain rfl : pre = pre' := List.append_cancel_right happ
  have hperm : pre.Perm t.bytes := by simpa [Scan.empty, Scan.bytes, optByte, encodeRep, encodeSeg] using hperm
  refine ⟨hperm, fun c y bs hy => ?_⟩
  rw [decode, scanPrefixes_perm hperm hpre, scanPrefixes_bytes ht hy]

/-- Settles O5: the scan holds what VEX forbids, and step 3 of R100 asks it first; REX before VEX is step 2. -/
theorem vexAfterForbiddenPrefix : Obligations.VexAfterForbiddenPrefix := by
  rintro c pre rest b hb ⟨t, hscan⟩
  obtain ⟨hperm, hdecode⟩ := prefixes_of_scan hscan
  have hleg := (vex_not_prefix b hb).1
  refine ⟨fun ⟨p, hmem, hp⟩ => ?_, fun hm r => ?_⟩
  · have hbad := forbidden_of_mem_bytes (hperm.mem_iff.1 hmem) hp
    refine ⟨fun hm => ?_, fun _ b1 h3 => ?_⟩
    · rw [hdecode c b rest hleg, decodeAfterPrefixes_vex64 hm hb, decodeVex_of_forbidden hbad]
    · rw [hdecode c b _ hleg, decodeAfterPrefixes_vex hb fun _ => h3, decodeVex_of_forbidden hbad]
  · have hhigh : (0x4#4 ++ r).extractLsb' 4 4 = 4#4 := BitVec.extractLsb'_append_eq_left
    rw [hdecode c _ _ (isLegacyPrefix_of_high _ hhigh), decodeAfterPrefixes_rex hm hhigh, decodeAfterRex_vex hb]

/-! ## Reserved VEX fields (R101) -/

/-- A form whose fields stop it is not read on. -/
theorem withModRM_stopped {a : AddrSize} {stop : ModRM → Option DecodeResult}
    {row : BitVec 3 → RM → List Byte → DecodeResult} {mod : BitVec 2} {reg n : BitVec 3} {r : DecodeResult}
    (h : stop ⟨mod, reg, n⟩ = some r) (bs : List Byte) : withModRM a stop row (byteOfFields mod reg n :: bs) = r := by
  simp only [withModRM, modRMOfByte_byteOfFields, h]

/-- VEX AE /3 with memory and pp = 00 is #UD when L or vvvv is not as it must be. -/
theorem vexStoreStop_reserved {v : Vex} (h : v.vvvv ≠ 0 ∨ v.l = true) {mod : BitVec 2} (hmod : mod ≠ 3) (n : BitVec 3) :
    vexStoreStop v 0 ⟨mod, 3, n⟩ = some .ud := by
  have hres : (v.l || v.vvvv != 0) = true := by simpa [or_comm] using h
  rw [vexStoreStop, if_neg (not_not.2 rfl), if_neg hmod, if_neg (not_not.2 rfl), if_pos hres]

end Sys2Proof

namespace Sys2Proof.Machine

/-- #UD has no error code and leaves the state as it was (60_exceptions.md R182, R189). -/
theorem raise_ud {α : Type} (s : State) :
    (raise s .ud 0 : Host.Outcome α Fault Refusal) = .fault (.exception .ud none (faulted s)) := rfl

/-- The VEX checks never pass a reserved field: #NM comes after it. -/
theorem vexCheck_reserved (s : State) : vexCheck s true = some .ud := by
  simp only [vexCheck, ↓reduceIte]
  split_ifs <;> rfl

/-- LOCK is the first of the legacy checks. -/
theorem legacySseCheck_locked (s : State) (has : Bool) : legacySseCheck s true has = some .ud := rfl

theorem vexPackedSqrt_reserved {w : Nat} (len : Nat) {v : Vex} (h : v.vvvv ≠ 0) (reg : BitVec 3) (rm : RM)
    (f : BitVec w → BitVec 2 → Bool → BitVec w × List FpFlags) (s : State) :
    vexPackedSqrt w len v reg rm f s = .fault (.exception .ud none (faulted s)) := by
  have hres : (v.vvvv != 0) = true := by simpa using h
  rw [vexPackedSqrt, hres, vexCheck_reserved]
  rfl

theorem execVstmxcsr_reserved {v : Vex} (h : v.vvvv ≠ 0 ∨ v.l = true) (m : MemForm) (s : State) :
    execVstmxcsr v m s = .fault (.exception .ud none (faulted s)) := by
  have hres : (v.l || v.vvvv != 0) = true := by simpa [or_comm] using h
  rw [execVstmxcsr, hres, vexCheck_reserved]
  rfl

/-- Settles O38, clause by clause: the meaning, the decoder at the opcode, the decoder at the ModR/M byte. -/
theorem reservedVexFields : Obligations.ReservedVexFields := by
  refine ⟨fun v reg rm m s i h => ?meaning, fun c v pp rest hv hres hpp => ?opcode,
    fun c v mod n rest hv hres hmod => ?modrm⟩
  case meaning =>
    obtain ⟨hres, hi⟩ | ⟨hl, rfl⟩ := h
    · simp only [List.mem_cons, List.not_mem_nil, or_false] at hi
      obtain rfl | rfl | rfl | rfl | rfl := hi
      · exact vexPackedSqrt_reserved _ hres reg rm _ s
      · exact vexPackedSqrt_reserved _ hres reg rm _ s
      · exact vexPackedSqrt_reserved _ hres reg rm _ s
      · exact vexPackedSqrt_reserved _ hres reg rm _ s
      · exact execVstmxcsr_reserved (.inl hres) m s
    · exact execVstmxcsr_reserved (.inr hl) m s
  case opcode =>
    rw [decode_encodeVex hv, decodeVexOpcode, if_pos rfl, if_pos ⟨hpp, hres⟩]
  case modrm =>
    rw [decode_encodeVex hv]
    exact withModRM_stopped (vexStoreStop_reserved hres hmod n) rest

/-! ## LOCK (R75) -/

theorem legacySqrt_locked {w : Nat} (len : Nat) (has : Bool) (rule : AccessRule) {p : Pfx} (h : p.lock = true)
    (reg : BitVec 3) (rm : RM) (f : BitVec w → BitVec 2 → Bool → BitVec w × List FpFlags) (s : State) :
    legacySqrt w len has rule p reg rm f s = .fault (.exception .ud none (faulted s)) := by
  rw [legacySqrt, h, legacySseCheck_locked]
  rfl

/-- Settles O39, row by row: LOCK is the first thing that each meaning asks. -/
theorem lockRaisesUd : Obligations.LockRaisesUd := by
  intro i s h
  cases i with
  | sqrtpd p reg rm | sqrtps p reg rm | sqrtsd p reg rm | sqrtss p reg rm => exact legacySqrt_locked _ _ _ h reg rm _ s
  | stmxcsr p m =>
    have hl : p.lock = true := h
    change execStmxcsr p m s = _
    rw [execStmxcsr, hl, legacySseCheck_locked]
    rfl
  | vsqrtpdXmm _ _ _ | vsqrtpdYmm _ _ _ | vsqrtpsXmm _ _ _ | vsqrtpsYmm _ _ _ | vsqrtsd _ _ _ | vsqrtss _ _ _
  | vstmxcsr _ _ => cases h
  | smswRm16 p rm | smswR32M16 p rm | smswR64M16 p rm | str p rm | stc p | std p | sti p | stosM8 p | stosM16 p
  | stosM32 p | stosM64 p | stosb p | stosw p | stosd p | stosq p => exact (if_pos h).trans (raise_ud s)

end Sys2Proof.Machine
end

section
/-! PROOFS. SMSW (40_smsw.md): the register and memory forms with all that they leave unchanged, and words of the spec's
worked examples. -/

namespace Sys2Proof.Machine

/-! ## Words of the worked examples -/

/-- Words that are an instruction's own decode to it. -/
theorem decode_of_encode {c : CodeCtx} {i : Instr} {bs : List Byte} (hwf : i.wellFormed c = true)
    (hcanon : i.canonical = i) (hbs : encode i = bs) : decode c bs = .ok i [] := by
  have h := decodeReadsEncodeBack c i [] hwf
  rwa [List.append_nil, hbs, hcanon] at h

/-- Settles O6: the words of each example are the encoding of its instruction, which the decoder reads back. -/
theorem exampleWordsDecode : Obligations.ExampleWordsDecode := by
  unfold Obligations.ExampleWordsDecode
  and_intros <;> exact decode_of_encode (by decide) rfl (by decide)

/-! ## Frames of a write to a register and of a store -/

/-- An instruction that ends in `retire` completes when what it did before kept the constants, the inputs and what the
program counter depends on. -/
theorem completes_retire {i : Instr} {s u : State} (hpc : nextPc u (instrLen i) = nextPc s (instrLen i))
    (hc : sameConstants s u) (hin : u.inputs = s.inputs) : completes i s (retire (instrLen i) u) :=
  ⟨hpc, rfl, hc, hin⟩

/-- A general register written at any operand size, whatever number of free values was drawn: all else is as before. -/
theorem writesGpr_retire_writeGpr (i : Instr) (s : State) (draws : Nat) (dst : BitVec 4) (size : OpSize)
    (v : BitVec 64) :
    writesGpr i dst s (retire (instrLen i) (writeGpr { s with freeIdx := draws } dst size v)) := by
  refine ⟨fun j hj => ?others, fun _ => rfl, fun _ _ => rfl, rfl, rfl, completes_retire rfl ?constants rfl⟩
  case others => exact (readX_setX ..).trans (if_neg hj.symm)
  case constants => simp [sameConstants, writeGpr]

/-- Bytes stored at as many physical addresses: they stand there, and all else is as before. -/
theorem writesBytes_retire_setMem (i : Instr) {s : State} {ps : List Nat} {bytes : List Byte}
    (hwf : Memory.wf s.mem = true) (hlen : ps.length = bytes.length) :
    writesBytes i ps bytes s (retire (instrLen i) (setMem s (memWriteAll s.mem (ps.zip bytes)))) := by
  refine ⟨holdsAt_of_mem_eq hwf hlen rfl, fun a ha => ?outside, fun _ => rfl, fun _ => rfl, rfl, rfl,
    completes_retire rfl ?constants rfl⟩
  case outside =>
    refine memRead_memWriteAll_of_notMem hwf fun hmem => ?_
    obtain ⟨c, hc, rfl⟩ := List.mem_map.1 hmem
    exact ha (List.of_mem_zip hc).1
  case constants => simp [sameConstants]

/-! ## What a register holds after a write (10_state.md R19) -/

/-- The register written holds the merge of its old value and the new one. -/
theorem readX_writeGpr_self (s : State) (i : BitVec 4) (size : OpSize) (v : BitVec 64) :
    readX (writeGpr s i size v) i = mergeGpr (in64 s) size (readX s i) v := readX_setX_self ..

/-- A write of 16 bits keeps bits 63:16. -/
theorem mergeGpr_o16_upper (m64 : Bool) (old v : BitVec 64) :
    (mergeGpr m64 .o16 old v).extractLsb' 16 48 = old.extractLsb' 16 48 := BitVec.extractLsb'_append_eq_left

/-- A write of 32 bits outside 64-bit mode keeps bits 63:32. -/
theorem mergeGpr_o32_upper (old v : BitVec 64) :
    (mergeGpr false .o32 old v).extractLsb' 32 32 = old.extractLsb' 32 32 := BitVec.extractLsb'_append_eq_left

/-- A write of 32 bits in 64-bit mode zero-extends them. -/
theorem mergeGpr_o32_in64 (old v : BitVec 64) : mergeGpr true .o32 old v = (v.extractLsb' 0 32).setWidth 64 := by
  rw [← BitVec.setWidth_eq_extractLsb' (by decide)]
  rfl

/-! ## The machine status word (40_smsw.md R108) -/

/-- The machine status word, widened to a register, has CR0[15:0] below. -/
theorem msw_setWidth_low16 (s : State) : ((msw s).setWidth 64).extractLsb' 0 16 = s.cr0.extractLsb' 0 16 := by
  rw [BitVec.extractLsb'_setWidth_of_le (by decide)]
  exact BitVec.extractLsb'_setWidth_of_le (by decide)

/-- So it has under any bits 31:16 (40_smsw.md R111). -/
theorem append_msw_setWidth_low16 (u : BitVec 16) (s : State) :
    ((u ++ msw s).setWidth 64).extractLsb' 0 16 = s.cr0.extractLsb' 0 16 := by
  rw [BitVec.extractLsb'_setWidth_of_le (by decide), BitVec.extractLsb'_append_eq_right]
  exact BitVec.setWidth_eq_extractLsb' (by decide)

/-- Its two bytes, CR0[7:0] first (40_smsw.md R113). -/
theorem leBytes_msw (s : State) : leBytes 2 (msw s) = [s.cr0.extractLsb' 0 8, s.cr0.extractLsb' 8 8] := by
  have hlow : (msw s).extractLsb' 0 8 = s.cr0.extractLsb' 0 8 := BitVec.extractLsb'_setWidth_of_le (by decide)
  have hhigh : (msw s).extractLsb' 8 8 = s.cr0.extractLsb' 8 8 := BitVec.extractLsb'_setWidth_of_le (by decide)
  rw [← hlow, ← hhigh]
  rfl

/-! ## SMSW to a register -/

/-- Settles O17: a write of the machine status word at 16 bits. -/
theorem smswToRegister16 : Obligations.SmswToRegister16 := by
  intro p n s hl
  refine ⟨_, ite_raise_eq_next.2 ⟨by simp [hl], rfl⟩, ?low, ?upper, writesGpr_retire_writeGpr _ s s.freeIdx _ .o16 _⟩
  case low => exact (readX_writeGpr_low16 ..).trans (msw_setWidth_low16 s)
  case upper => exact (congrArg _ (readX_writeGpr_self ..)).trans (mergeGpr_o16_upper ..)

/-- In 64-bit mode the register form of SMSW r32 writes CR0 at 32 bits. -/
theorem smswToReg32_of_in64 {s : State} (h : in64 s = true) (r : BitVec 4) :
    smswToReg32 r s = writeGpr s r .o32 s.cr0 := if_pos h

/-- Outside 64-bit mode it draws a free value and writes it above the machine status word (40_smsw.md R111). -/
theorem smswToReg32_of_not_in64 {s : State} (h : in64 s = false) (r : BitVec 4) :
    smswToReg32 r s = writeGpr { s with freeIdx := s.freeIdx + 1 } r .o32
      ((Config.smswUndefinedBits s.freeIdx ++ msw s).setWidth 64) := if_neg (by simp [h])

/-- In either mode it writes the one register. -/
theorem writesGpr_retire_smswToReg32 (i : Instr) (r : BitVec 4) (s : State) :
    writesGpr i r s (retire (instrLen i) (smswToReg32 r s)) := by
  cases h : in64 s with
  | true =>
    rw [smswToReg32_of_in64 h]
    exact writesGpr_retire_writeGpr i s s.freeIdx r .o32 _
  | false =>
    rw [smswToReg32_of_not_in64 h]
    exact writesGpr_retire_writeGpr i s _ r .o32 _

/-- In 64-bit mode the register is CR0[31:0], zero-extended (40_smsw.md R110). -/
theorem readX_smswToReg32_of_in64 {s : State} (h : in64 s = true) (r : BitVec 4) :
    readX (smswToReg32 r s) r = (s.cr0.extractLsb' 0 32).setWidth 64 := by
  rw [smswToReg32_of_in64 h, readX_writeGpr_self, h, mergeGpr_o32_in64]

/-- Outside 64-bit mode its low half-word is that of CR0, whatever value was drawn. -/
theorem readX_smswToReg32_low16 {s : State} (h : in64 s = false) (r : BitVec 4) :
    (readX (smswToReg32 r s) r).extractLsb' 0 16 = s.cr0.extractLsb' 0 16 := by
  rw [smswToReg32_of_not_in64 h, readX_writeGpr_low16, append_msw_setWidth_low16]

/-- Outside 64-bit mode its upper half is as before. -/
theorem readX_smswToReg32_upper {s : State} (h : in64 s = false) (r : BitVec 4) :
    (readX (smswToReg32 r s) r).extractLsb' 32 32 = (readX s r).extractLsb' 32 32 := by
  have hdraw : in64 { s with freeIdx := s.freeIdx + 1 } = false := h
  rw [smswToReg32_of_not_in64 h, readX_writeGpr_self, hdraw, mergeGpr_o32_upper]
  rfl

/-- Settles O18: by mode a write of CR0, or of the machine status word under a free value, at 32 bits. -/
theorem smswToRegister32 : Obligations.SmswToRegister32 := by
  intro p n s hl
  refine ⟨_, ite_raise_eq_next.2 ⟨by simp [hl], rfl⟩, ?value, writesGpr_retire_smswToReg32 _ _ s⟩
  split
  case isTrue h => exact readX_smswToReg32_of_in64 h _
  case isFalse h =>
    have h64 : in64 s = false := Bool.eq_false_iff.2 h
    exact ⟨readX_smswToReg32_low16 h64 _, readX_smswToReg32_upper h64 _⟩

/-- Settles O19: a write of CR0 at 64 bits. -/
theorem smswToRegister64 : Obligations.SmswToRegister64 := by
  intro p n s hl
  exact ⟨_, ite_raise_eq_next.2 ⟨by simp [hl], rfl⟩, readX_writeGpr_self ..,
    writesGpr_retire_writeGpr _ s s.freeIdx _ .o64 _⟩

/-! ## SMSW to memory -/

/-- Without LOCK the three rows have one meaning at a memory operand. -/
theorem exec_smsw_mem {p : Pfx} {m : MemForm} {i : Instr}
    (hi : i ∈ [Instr.smswRm16 p (.mem m), .smswR32M16 p (.mem m), .smswR64M16 p (.mem m)]) (hl : p.lock = false)
    (s : State) : exec i s = smswToMem (instrLen i) p m s := by
  have hlock : ¬ p.lock = true := by simp [hl]
  simp only [List.mem_cons, List.not_mem_nil, or_false] at hi
  obtain rfl | rfl | rfl := hi <;> exact if_neg hlock

/-- Settles O20: the store of an operand that can be accessed, of the two bytes of the machine status word. -/
theorem smswToMemory : Obligations.SmswToMemory := by
  intro p m i s hi hwf hl hacc
  refine ⟨_, (exec_smsw_mem hi hl s).trans (smswToMem_eq_next.2 ⟨hacc, rfl⟩), ?_⟩
  rw [leBytes_msw]
  exact writesBytes_retire_setMem i hwf (operandPhys_length ..)

end Sys2Proof.Machine
end

section
/-! PROOFS. The square-root instructions (41_sqrt.md): availability, a numeric condition that is not masked, and the
destinations lane by lane. -/

namespace Sys2Proof.Machine

/-! ## Availability (41_sqrt.md R127) -/

/-- The legacy checks as two conditions: those of #UD, then that of #NM. -/
theorem legacySseCheck_eq_ite (s : State) (lock has : Bool) :
    legacySseCheck s lock has =
      if lock = true ∨ cr0EM s = true ∨ cr4OSFXSR s = false ∨ has = false then some .ud
      else if cr0TS s then some .nm else none := by
  unfold legacySseCheck
  cases lock with
  | true => rfl
  | false => cases cr0EM s with
    | true => rfl
    | false => cases cr4OSFXSR s with
      | false => rfl
      | true => cases has <;> rfl

/-- The VEX checks as two conditions: those of #UD, then that of #NM. -/
theorem vexCheck_eq_ite (s : State) (reserved : Bool) :
    vexCheck s reserved =
      if mode s = .real ∨ mode s = .v86 ∨ s.features.hasAvx = false ∨ cr4OSXSAVE s = false ∨ xcr0SseAvx s ≠ 3 ∨
        reserved = true then some .ud
      else if cr0TS s then some .nm else none := by
  have hmode : realOrV86 s = true ↔ mode s = .real ∨ mode s = .v86 := by simp [realOrV86]
  simp only [vexCheck, ← or_assoc, ← hmode]
  cases realOrV86 s with
  | true => rfl
  | false => cases s.features.hasAvx with
    | false => rfl
    | true => cases cr4OSXSAVE s with
      | false => rfl
      | true => by_cases hx : xcr0SseAvx s = 3#2 <;> simp [hx]

/-- What a failed check does to a meaning. -/
def checked (check : Option Exc) (s : State) (rest : Host.Outcome State Fault Refusal) :
    Host.Outcome State Fault Refusal :=
  match check with
  | some x => raise s x 0
  | none => rest

/-- #NM has no error code and leaves the state as it was (60_exceptions.md R182, R189). -/
theorem raise_nm {α : Type} (s : State) :
    (raise s .nm 0 : Host.Outcome α Fault Refusal) = .fault (.exception .nm none (faulted s)) := rfl

/-- A meaning behind checks that are #UD under `c` and else #NM with CR0.TS = 1. -/
theorem unavailable_of_check {c : Prop} [Decidable c] {s : State} {check : Option Exc}
    {rest : Host.Outcome State Fault Refusal}
    (hcheck : check = if c then some .ud else if cr0TS s then some .nm else none) :
    if c then checked check s rest = .fault (.exception .ud none (faulted s))
    else cr0TS s = true → checked check s rest = .fault (.exception .nm none (faulted s)) := by
  subst hcheck
  split
  · exact raise_ud s
  · intro hts
    rw [if_pos hts]
    exact raise_nm s

/-- Each legacy row stands behind the legacy checks with its own feature flag. -/
theorem exec_legacy_checked {p : Pfx} {reg : BitVec 3} {rm : RM} {m : MemForm} {s : State} {i : Instr} {has : Bool}
    (h : (i, has) ∈ [(Instr.sqrtpd p reg rm, s.features.hasSse2), (.sqrtps p reg rm, s.features.hasSse),
      (.sqrtsd p reg rm, s.features.hasSse2), (.sqrtss p reg rm, s.features.hasSse),
      (.stmxcsr p m, s.features.hasSse)]) :
    ∃ rest, exec i s = checked (legacySseCheck s p.lock has) s rest := by
  simp only [List.mem_cons, List.not_mem_nil, or_false, Prod.mk.injEq] at h
  obtain ⟨rfl, rfl⟩ | ⟨rfl, rfl⟩ | ⟨rfl, rfl⟩ | ⟨rfl, rfl⟩ | ⟨rfl, rfl⟩ := h <;> exact ⟨_, rfl⟩

/-- Each VEX row stands behind the VEX checks with its own reserved fields. -/
theorem exec_vex_checked {v : Vex} {reg : BitVec 3} {rm : RM} {m : MemForm} {s : State} {i : Instr} {reserved : Bool}
    (h : (i, reserved) ∈ [(Instr.vsqrtpdXmm v reg rm, v.vvvv != 0), (.vsqrtpdYmm v reg rm, v.vvvv != 0),
      (.vsqrtpsXmm v reg rm, v.vvvv != 0), (.vsqrtpsYmm v reg rm, v.vvvv != 0), (.vsqrtsd v reg rm, false),
      (.vsqrtss v reg rm, false), (.vstmxcsr v m, v.l || v.vvvv != 0)]) :
    ∃ rest, exec i s = checked (vexCheck s reserved) s rest := by
  simp only [List.mem_cons, List.not_mem_nil, or_false, Prod.mk.injEq] at h
  obtain ⟨rfl, rfl⟩ | ⟨rfl, rfl⟩ | ⟨rfl, rfl⟩ | ⟨rfl, rfl⟩ | ⟨rfl, rfl⟩ | ⟨rfl, rfl⟩ | ⟨rfl, rfl⟩ := h <;>
    exact ⟨_, rfl⟩

/-- Settles O36: every legacy row begins with the legacy checks, #UD before #NM. -/
theorem legacySseUnavailable : Obligations.LegacySseUnavailable := by
  intro p reg rm m s i has hi
  obtain ⟨rest, he⟩ := exec_legacy_checked hi
  rw [he]
  exact unavailable_of_check (legacySseCheck_eq_ite s p.lock has)

/-- Settles O37: every VEX row begins with the VEX checks, #UD before #NM. -/
theorem vexUnavailable : Obligations.VexUnavailable := by
  intro v reg rm m s i reserved hi
  obtain ⟨rest, he⟩ := exec_vex_checked hi
  rw [he]
  exact unavailable_of_check (vexCheck_eq_ite s reserved)

/-! ## A numeric condition that is not masked (41_sqrt.md R126) -/

/-- A fault of the numeric step, which leaves all but MXCSR and the STI delay as it was. -/
def NumericFault (s : State) (o : Host.Outcome State Fault Refusal) : Prop :=
  ∃ left, o = .fault (.exception (if cr4OSXMMEXCPT s then .xm else .ud) none left) ∧
    keepsYmms s left ∧ keepsGprs s left ∧ left.mem = s.mem ∧ left.eflags = s.eflags ∧ left.pc = s.pc ∧
    sameConstants s left

/-- The state that a numeric condition is raised in: the six flags of MXCSR are a free value (U13, log 17). -/
def withFreeFlags (s : State) : State :=
  { s with
    mxcsr := s.mxcsr.extractLsb' 6 26 ++ Config.mxcsrFlagsOnFault s.freeIdx
    freeIdx := s.freeIdx + 1 }

theorem numericStep_of_unmasked {s : State} {fs : List FpFlags} (h : fs.all (masked s) = false) :
    numericStep s fs = raise (withFreeFlags s) (if cr4OSXMMEXCPT s then .xm else .ud) 0 :=
  if_pos (by rw [fault_eq_not_masked, h]; rfl)

/-- The numeric step faults on a condition that is not masked. -/
theorem numericStep_fault {s : State} {fs : List FpFlags} (h : fs.all (masked s) = false) :
    NumericFault s (numericStep s fs) := by
  have hcode : excHasCode (if cr4OSXMMEXCPT s then .xm else .ud) = false := by split <;> rfl
  refine ⟨faulted (withFreeFlags s), ?fault, fun _ => rfl, fun _ => rfl, rfl, rfl, rfl, ?constants⟩
  case fault =>
    rw [numericStep_of_unmasked h, raise, hcode]
    rfl
  case constants => simp [sameConstants, withFreeFlags]

/-- A square root that could read its source faults as its numeric step does. -/
theorem sqrtBody_fault {w : Nat} {e : AddrBits} {len : Nat} {dst : BitVec 4} {rm : RM} {rule : AccessRule}
    {f : BitVec w → BitVec 2 → Bool → BitVec w × List FpFlags} {dest : BitVec w → BitVec 256} {s : State}
    {fs : List FpFlags} (hsrc : sourceOk w s e len rm rule = true)
    (hf : (f (sourceValue w s e len rm) (mxcsrRC s) (mxcsrDAZ s)).2 = fs) (h : fs.all (masked s) = false) :
    NumericFault s (sqrtBody w e len dst rm rule f dest s) := by
  obtain ⟨left, hleft, hkeeps⟩ := numericStep_fault h
  refine ⟨left, ?_, hkeeps⟩
  rw [sqrtBody, readVec_eq_next.2 ⟨hsrc, rfl⟩, andThen_next, hf, hleft, andThen_fault]

/-- The source can be read when the instruction's own access can be made. -/
theorem sourceOk_of_rmAccess {w : Nat} {s : State} {e : AddrBits} {len : Nat} {rm : RM} {rule : AccessRule}
    (h : ∀ a, rmAccess s e len (w / 8) .read rule rm = some a → accessOk s a.seg a.off a.size a.kind a.rule = true) :
    sourceOk w s e len rm rule = true := by
  cases rm with
  | reg n => rfl
  | mem m => exact h ⟨operandSeg s e m, effAddr s e len m, w / 8, .read, rule⟩ rfl

/-- An available legacy row is its shared part. -/
theorem legacySqrt_of_available {w len : Nat} {has : Bool} {rule : AccessRule} {p : Pfx} {reg : BitVec 3} {rm : RM}
    {f : BitVec w → BitVec 2 → Bool → BitVec w × List FpFlags} {s : State} (h : legacyAvailable s p.lock has = true) :
    legacySqrt w len has rule p reg rm f s =
      sqrtBody w (addrBitsOfPfx p) len (regNum s p.r reg) rm rule f (keepAbove w (readYmm s (regNum s p.r reg))) s := by
  rw [legacySqrt, (legacySseCheck_eq_none_iff s p.lock has).2 h]

/-- An available packed VEX row is its shared part. -/
theorem vexPackedSqrt_of_available {w len : Nat} {v : Vex} {reg : BitVec 3} {rm : RM}
    {f : BitVec w → BitVec 2 → Bool → BitVec w × List FpFlags} {s : State} (h : vexAvailable s (v.vvvv != 0) = true) :
    vexPackedSqrt w len v reg rm f s =
      sqrtBody w (addrBitsOfVex v) len (regNum s v.r reg) rm .plain f (fun r => r.setWidth 256) s := by
  rw [vexPackedSqrt, (vexCheck_eq_none_iff s _).2 h]

/-- An available scalar VEX row is its shared part. -/
theorem vexScalarSqrt_of_available {w len : Nat} {v : Vex} {reg : BitVec 3} {rm : RM}
    {f : BitVec w → BitVec 2 → Bool → BitVec w × List FpFlags} {s : State} (h : vexAvailable s false = true) :
    vexScalarSqrt w len v reg rm f s =
      sqrtBody w (addrBitsOfVex v) len (regNum s v.r reg) rm .plain f
        (mergeScalar w (readYmm s (vvvvNum s v.vvvv))) s := by
  rw [vexScalarSqrt, (vexCheck_eq_none_iff s _).2 h]

/-- The rows with lanes are the square roots: an available one is its shared part, whose flags are those of its lanes
and whose read is the access of the instruction (41_sqrt.md R118, R127, R140). -/
theorem exec_eq_sqrtBody {i : Instr} {s : State} (hav : available i s = true) (hlanes : laneFlags i s ≠ []) :
    ∃ (w : Nat) (e : AddrBits) (dst : BitVec 4) (rm : RM) (rule : AccessRule)
      (f : BitVec w → BitVec 2 → Bool → BitVec w × List FpFlags) (dest : BitVec w → BitVec 256),
      exec i s = sqrtBody w e (instrLen i) dst rm rule f dest s ∧
      (f (sourceValue w s e (instrLen i) rm) (mxcsrRC s) (mxcsrDAZ s)).2 = laneFlags i s ∧
      memAccess i s = rmAccess s e (instrLen i) (w / 8) .read rule rm := by
  cases i with
  | sqrtpd p reg rm =>
    exact ⟨_, _, _, _, _, _, _, legacySqrt_of_available hav, sqrtPd128_flags s _, rfl⟩
  | sqrtps p reg rm =>
    exact ⟨_, _, _, _, _, _, _, legacySqrt_of_available hav, sqrtPs128_flags s _, rfl⟩
  | sqrtsd p reg rm =>
    exact ⟨_, _, _, _, _, _, _, legacySqrt_of_available hav, sqrtSd_flags s _, rfl⟩
  | sqrtss p reg rm =>
    exact ⟨_, _, _, _, _, _, _, legacySqrt_of_available hav, sqrtSs_flags s _, rfl⟩
  | vsqrtpdXmm v reg rm =>
    exact ⟨_, _, _, _, _, _, _, vexPackedSqrt_of_available hav, sqrtPd128_flags s _, rfl⟩
  | vsqrtpdYmm v reg rm =>
    exact ⟨_, _, _, _, _, _, _, vexPackedSqrt_of_available hav, sqrtPd256_flags s _, rfl⟩
  | vsqrtpsXmm v reg rm =>
    exact ⟨_, _, _, _, _, _, _, vexPackedSqrt_of_available hav, sqrtPs128_flags s _, rfl⟩
  | vsqrtpsYmm v reg rm =>
    exact ⟨_, _, _, _, _, _, _, vexPackedSqrt_of_available hav, sqrtPs256_flags s _, rfl⟩
  | vsqrtsd v reg rm =>
    exact ⟨_, _, _, _, _, _, _, vexScalarSqrt_of_available hav, sqrtSd_flags s _, rfl⟩
  | vsqrtss v reg rm =>
    exact ⟨_, _, _, _, _, _, _, vexScalarSqrt_of_available hav, sqrtSs_flags s _, rfl⟩
  | smswRm16 | smswR32M16 | smswR64M16 | stc | std | sti | stmxcsr | vstmxcsr | stosM8 | stosM16 | stosM32 | stosM64
  | stosb | stosw | stosd | stosq | str => exact absurd rfl hlanes

/-- Settles O35: an instruction with lanes is a square root, which reads its source and faults in its numeric step. -/
theorem unmaskedConditionFaults : Obligations.UnmaskedConditionFaults := by
  intro i s hav hacc h
  have hlanes : laneFlags i s ≠ [] := fun hnil => by
    rw [hnil] at h
    cases h
  obtain ⟨w, e, dst, rm, rule, f, dest, hexec, hf, hmem⟩ := exec_eq_sqrtBody hav hlanes
  have hsrc : sourceOk w s e (instrLen i) rm rule = true := sourceOk_of_rmAccess fun a ha => hacc a (hmem.trans ha)
  rw [hexec]
  exact sqrtBody_fault hsrc hf h

/-! ## A square root that completes (41_sqrt.md R126, R140) -/

/-- The destination and the sticky flags written: all else is as before. -/
theorem writesRoot_retire_setYmm (i : Instr) (s : State) (dst : BitVec 4) (v : BitVec 256) :
    writesRoot i dst s
      (retire (instrLen i) (setYmm (setMxcsr s (s.mxcsr ||| allFlagBits (laneFlags i s))) dst v)) := by
  have hbit : ∀ k, (s.mxcsr ||| allFlagBits (laneFlags i s)).getLsbD k =
      (s.mxcsr.getLsbD k || ((k == 0 && (laneFlags i s).any FpFlags.i) || (k == 1 && (laneFlags i s).any FpFlags.d) ||
        (k == 5 && (laneFlags i s).any FpFlags.p))) := fun k => by rw [BitVec.getLsbD_or, allFlagBits_getLsbD]
  refine ⟨fun j hj => ?others, fun _ => rfl, fun _ _ => rfl, rfl, ?ie, ?de, ?pe, fun k h0 h1 h5 => ?rest,
    completes_retire rfl ?constants rfl⟩
  case others => exact (readYmm_setYmm ..).trans (if_neg hj.symm)
  case ie => exact (hbit 0).trans (by simp)
  case de => exact (hbit 1).trans (by simp)
  case pe => exact (hbit 5).trans (by simp)
  case rest => exact (hbit k).trans (by simp [h0, h1, h5])
  case constants => simp [sameConstants]

/-- The outcome is a next state in which `dst` holds `v`, the sticky flags of the lanes are set, and all else is as
before. -/
def RootWritten (i : Instr) (dst : BitVec 4) (v : BitVec 256) (s : State) (o : Host.Outcome State Fault Refusal) :
    Prop :=
  ∃ t, o = .next t ∧ readYmm t dst = v ∧ writesRoot i dst s t

/-- A square root that can read its source, with every condition masked, writes what `dest` makes of the result. -/
theorem sqrtBody_written {i : Instr} {w : Nat} {e : AddrBits} {dst : BitVec 4} {rm : RM} {rule : AccessRule}
    {f : BitVec w → BitVec 2 → Bool → BitVec w × List FpFlags} {dest : BitVec w → BitVec 256} {s : State}
    {o : Host.Outcome State Fault Refusal} (ho : o = sqrtBody w e (instrLen i) dst rm rule f dest s)
    (hsrc : sourceOk w s e (instrLen i) rm rule = true)
    (hf : (f (sourceValue w s e (instrLen i) rm) (mxcsrRC s) (mxcsrDAZ s)).2 = laneFlags i s)
    (hm : (laneFlags i s).all (masked s) = true) :
    RootWritten i dst (dest (f (sourceValue w s e (instrLen i) rm) (mxcsrRC s) (mxcsrDAZ s)).1) s o := by
  subst ho
  refine ⟨_, sqrtBody_eq_next.2 ⟨hsrc, ?masked, rfl⟩, readYmm_setYmm_self .., ?frame⟩
  case masked => rw [hf, fault_eq_not_masked, hm]; rfl
  case frame => rw [hf]; exact writesRoot_retire_setYmm i s dst _

/-! ## Lanes and destinations (41_sqrt.md R119, R120) -/

/-- `x` is made of the lanes `rs` of `n` bits, the lowest first. -/
def HasLanes {w : Nat} (n : Nat) (x : BitVec w) (rs : List (BitVec n)) : Prop :=
  ∀ (k : Nat) (r : BitVec n), rs[k]? = some r → x.extractLsb' (n * k) n = r

theorem hasLanes_single {n : Nat} (r : BitVec n) : HasLanes n r [r] := by
  intro k q hk
  obtain ⟨rfl, rfl⟩ : 0 = k ∧ r = q := by simpa [List.getElem?_singleton, eq_comm] using hk
  exact BitVec.extractLsb'_eq_self

theorem HasLanes.append {n w : Nat} {hi : BitVec w} {rs : List (BitVec n)} (h : HasLanes n hi rs) (lo : BitVec n) :
    HasLanes n (hi ++ lo) (lo :: rs) := by
  intro k r hk
  cases k with
  | zero =>
    obtain rfl : lo = r := by simpa using hk
    exact BitVec.extractLsb'_append_eq_right
  | succ k =>
    have hstart : n * (k + 1) - n = n * k := by rw [Nat.mul_succ, Nat.add_sub_cancel]
    rw [BitVec.extractLsb'_append_eq_of_le (Nat.le_mul_of_pos_right n k.succ_pos), hstart]
    exact h k r (by simpa using hk)

/-- Lane `k` of a value made of the first `m` values of `g`. -/
theorem HasLanes.lane {n w m : Nat} {x : BitVec w} {g : Nat → BitVec n} (h : HasLanes n x ((List.range m).map g))
    {k : Nat} (hk : k < m) : x.extractLsb' (n * k) n = g k := h k _ (by simp [hk])

theorem sqrtPd128_hasLanes (v : BitVec 128) (rc : BitVec 2) (daz : Bool) :
    HasLanes 64 (sqrtPd128 v rc daz).1 ((List.range 2).map fun k => (sqrt64 (v.extractLsb' (64 * k) 64) rc daz).1) :=
  (hasLanes_single _).append _

theorem sqrtPd256_hasLanes (v : BitVec 256) (rc : BitVec 2) (daz : Bool) :
    HasLanes 64 (sqrtPd256 v rc daz).1 ((List.range 4).map fun k => (sqrt64 (v.extractLsb' (64 * k) 64) rc daz).1) :=
  (((hasLanes_single _).append _).append _).append _

theorem sqrtPs128_hasLanes (v : BitVec 128) (rc : BitVec 2) (daz : Bool) :
    HasLanes 32 (sqrtPs128 v rc daz).1 ((List.range 4).map fun k => (sqrt32 (v.extractLsb' (32 * k) 32) rc daz).1) :=
  (((hasLanes_single _).append _).append _).append _

theorem sqrtPs256_hasLanes (v : BitVec 256) (rc : BitVec 2) (daz : Bool) :
    HasLanes 32 (sqrtPs256 v rc daz).1 ((List.range 8).map fun k => (sqrt32 (v.extractLsb' (32 * k) 32) rc daz).1) :=
  (((((((hasLanes_single _).append _).append _).append _).append _).append _).append _).append _

/-- A lane ends where all of them do, or before. -/
theorem lane_le {n m w k : Nat} (hfit : n * m ≤ w) (hk : k < m) : n * k + n ≤ w := by
  calc n * k + n = n * (k + 1) := (Nat.mul_succ n k).symm
    _ ≤ n * m := Nat.mul_le_mul_left n hk
    _ ≤ w := hfit

/-- Below `w` the destination of a legacy form is the result. -/
theorem keepAbove_low {w start n : Nat} (old : BitVec 256) (r : BitVec w) (h : start + n ≤ w) (hw : w ≤ 256) :
    (keepAbove w old r).extractLsb' start n = r.extractLsb' start n := by
  refine BitVec.eq_of_getLsbD_eq fun j hj => ?_
  have h1 : start + j < w := by omega
  have h2 : start + j < 256 := by omega
  simp [keepAbove, hj, h1, h2]

/-- From `w` on it is the register as before. -/
theorem keepAbove_high {w start n : Nat} (old : BitVec 256) (r : BitVec w) (h : w ≤ start) :
    (keepAbove w old r).extractLsb' start n = old.extractLsb' start n := by
  refine BitVec.eq_of_getLsbD_eq fun j hj => ?_
  have h1 : ¬ start + j < w := by omega
  have h2 : w + (start + j - w) = start + j := by omega
  by_cases h3 : start + j < 256
  · simp [keepAbove, hj, h1, h2, h3, BitVec.getLsbD_of_ge r _ (Nat.le_of_not_lt h1)]
  · simp [hj, BitVec.getLsbD_of_ge _ _ (Nat.le_of_not_lt h3)]

/-- Bits past the result of a packed VEX form are 0. -/
theorem setWidth_high {w : Nat} (r : BitVec w) (start n : Nat) (h : w ≤ start) :
    (r.setWidth 256).extractLsb' start n = 0 := by
  refine BitVec.eq_of_getLsbD_eq fun j hj => ?_
  simp [hj, BitVec.getLsbD_of_ge r (start + j) (by omega)]

/-- The destination of a scalar VEX form, between the result and bit 127, is the first source. -/
theorem mergeScalar_mid {w start n : Nat} (src1 : BitVec 256) (r : BitVec w) (h : w ≤ start) (hn : start + n ≤ 128) :
    (mergeScalar w src1 r).extractLsb' start n = src1.extractLsb' start n := by
  rw [mergeScalar, keepAbove_high _ _ h, BitVec.extractLsb'_setWidth_of_le (by omega),
    BitVec.extractLsb'_setWidth_of_le hn]

/-- Its bits from 128 on are 0. -/
theorem mergeScalar_high {w start n : Nat} (src1 : BitVec 256) (r : BitVec w) (hw : w ≤ 128) (h : 128 ≤ start) :
    (mergeScalar w src1 r).extractLsb' start n = 0 := by
  rw [mergeScalar, keepAbove_high _ _ (hw.trans h), setWidth_high _ _ _ h]

/-! ## What the destination of each form holds -/

section
variable {i : Instr} {dst : BitVec 4} {s : State} {o : Host.Outcome State Fault Refusal}

/-- A legacy packed form: lanes of the result, and above them the register as before. -/
theorem RootWritten.legacyPacked {n m : Nat} {r : BitVec 128} {g : Nat → BitVec n}
    (h : RootWritten i dst (keepAbove 128 (readYmm s dst) r) s o) (hr : HasLanes n r ((List.range m).map g))
    (hfit : n * m ≤ 128) :
    ∃ t, o = .next t ∧ (∀ k : Nat, k < m → (readYmm t dst).extractLsb' (n * k) n = g k) ∧
      (readYmm t dst).extractLsb' 128 128 = (readYmm s dst).extractLsb' 128 128 ∧ writesRoot i dst s t := by
  obtain ⟨t, ht, hdst, hroot⟩ := h
  refine ⟨t, ht, fun k hk => ?_, ?_, hroot⟩
  · rw [hdst, keepAbove_low _ _ (lane_le hfit hk) (by decide), hr.lane hk]
  · rw [hdst, keepAbove_high _ _ le_rfl]

/-- A legacy scalar form: the result, and above it the register as before. -/
theorem RootWritten.legacyScalar {w : Nat} {r : BitVec w} (h : RootWritten i dst (keepAbove w (readYmm s dst) r) s o)
    (hw : w ≤ 256) :
    ∃ t, o = .next t ∧ (readYmm t dst).extractLsb' 0 w = r ∧
      (∀ n, (readYmm t dst).extractLsb' w n = (readYmm s dst).extractLsb' w n) ∧ writesRoot i dst s t := by
  obtain ⟨t, ht, hdst, hroot⟩ := h
  refine ⟨t, ht, ?_, fun n => ?_, hroot⟩
  · rw [hdst, keepAbove_low _ _ (by omega) hw, BitVec.extractLsb'_eq_self]
  · rw [hdst, keepAbove_high _ _ le_rfl]

/-- A packed VEX form: lanes of the result, and zeros above them. -/
theorem RootWritten.vexPacked {w n m : Nat} {r : BitVec w} {g : Nat → BitVec n}
    (h : RootWritten i dst (r.setWidth 256) s o) (hr : HasLanes n r ((List.range m).map g)) (hfit : n * m ≤ 256) :
    ∃ t, o = .next t ∧ (∀ k : Nat, k < m → (readYmm t dst).extractLsb' (n * k) n = g k) ∧
      (∀ len, (readYmm t dst).extractLsb' w len = 0) ∧ writesRoot i dst s t := by
  obtain ⟨t, ht, hdst, hroot⟩ := h
  refine ⟨t, ht, fun k hk => ?_, fun len => ?_, hroot⟩
  · rw [hdst, BitVec.extractLsb'_setWidth_of_le (lane_le hfit hk), hr.lane hk]
  · rw [hdst, setWidth_high _ _ _ le_rfl]

/-- A scalar VEX form: the result, the first source up to bit 127, and zeros above. -/
theorem RootWritten.vexScalar {w : Nat} {r : BitVec w} {src1 : BitVec 256}
    (h : RootWritten i dst (mergeScalar w src1 r) s o) (hw : w ≤ 128) :
    ∃ t, o = .next t ∧ (readYmm t dst).extractLsb' 0 w = r ∧
      (readYmm t dst).extractLsb' w (128 - w) = src1.extractLsb' w (128 - w) ∧
      (readYmm t dst).extractLsb' 128 128 = 0 ∧ writesRoot i dst s t := by
  obtain ⟨t, ht, hdst, hroot⟩ := h
  refine ⟨t, ht, ?_, ?_, ?_, hroot⟩
  · rw [hdst, mergeScalar, keepAbove_low _ _ (by omega) (by omega), BitVec.extractLsb'_eq_self]
  · rw [hdst, mergeScalar_mid _ _ le_rfl (by omega)]
  · rw [hdst, mergeScalar_high _ _ hw le_rfl]

end

/-! ## The obligations -/

/-- Settles O27: the lanes of the result under the upper half of the destination. -/
theorem legacyPackedRoots : Obligations.LegacyPackedRoots := fun _ _ _ s =>
  ⟨fun hav hsrc hm => (sqrtBody_written (legacySqrt_of_available hav) hsrc (sqrtPd128_flags s _) hm).legacyPacked
      (sqrtPd128_hasLanes _ _ _) (by decide),
    fun hav hsrc hm => (sqrtBody_written (legacySqrt_of_available hav) hsrc (sqrtPs128_flags s _) hm).legacyPacked
      (sqrtPs128_hasLanes _ _ _) (by decide)⟩

/-- Settles O28: the root under the upper bits of the destination. -/
theorem legacyScalarRoots : Obligations.LegacyScalarRoots := by
  intro p reg rm s
  constructor
  · intro hav hsrc hm
    obtain ⟨t, ht, hlow, hhigh, hroot⟩ :=
      (sqrtBody_written (legacySqrt_of_available hav) hsrc (sqrtSd_flags s _) hm).legacyScalar (by decide)
    exact ⟨t, ht, hlow, hhigh 192, hroot⟩
  · intro hav hsrc hm
    obtain ⟨t, ht, hlow, hhigh, hroot⟩ :=
      (sqrtBody_written (legacySqrt_of_available hav) hsrc (sqrtSs_flags s _) hm).legacyScalar (by decide)
    exact ⟨t, ht, hlow, hhigh 224, hroot⟩

/-- Settles O29: the lanes of the result, zero-extended. -/
theorem vexPackedDoubleRoots : Obligations.VexPackedDoubleRoots := by
  intro v reg rm s hav
  constructor
  · intro hsrc hm
    obtain ⟨t, ht, hlanes, hhigh, hroot⟩ :=
      (sqrtBody_written (vexPackedSqrt_of_available hav) hsrc (sqrtPd128_flags s _) hm).vexPacked
        (sqrtPd128_hasLanes _ _ _) (by decide)
    exact ⟨t, ht, hlanes, hhigh 128, hroot⟩
  · intro hsrc hm
    obtain ⟨t, ht, hlanes, -, hroot⟩ :=
      (sqrtBody_written (vexPackedSqrt_of_available hav) hsrc (sqrtPd256_flags s _) hm).vexPacked
        (sqrtPd256_hasLanes _ _ _) (by decide)
    exact ⟨t, ht, hlanes, hroot⟩

/-- Settles O30: the lanes of the result, zero-extended. -/
theorem vexPackedSingleRoots : Obligations.VexPackedSingleRoots := by
  intro v reg rm s hav
  constructor
  · intro hsrc hm
    obtain ⟨t, ht, hlanes, hhigh, hroot⟩ :=
      (sqrtBody_written (vexPackedSqrt_of_available hav) hsrc (sqrtPs128_flags s _) hm).vexPacked
        (sqrtPs128_hasLanes _ _ _) (by decide)
    exact ⟨t, ht, hlanes, hhigh 128, hroot⟩
  · intro hsrc hm
    obtain ⟨t, ht, hlanes, -, hroot⟩ :=
      (sqrtBody_written (vexPackedSqrt_of_available hav) hsrc (sqrtPs256_flags s _) hm).vexPacked
        (sqrtPs256_hasLanes _ _ _) (by decide)
    exact ⟨t, ht, hlanes, hroot⟩

/-- Settles O31: the root under the middle bits of the first source, zero-extended. -/
theorem vexScalarRoots : Obligations.VexScalarRoots := fun _ _ _ s hav =>
  ⟨fun hsrc hm =>
      (sqrtBody_written (vexScalarSqrt_of_available hav) hsrc (sqrtSd_flags s _) hm).vexScalar (by decide),
    fun hsrc hm =>
      (sqrtBody_written (vexScalarSqrt_of_available hav) hsrc (sqrtSs_flags s _) hm).vexScalar (by decide)⟩

end Sys2Proof.Machine
end

section
/-! PROOFS. Floating-point formats: the fields of an encoding, and the square roots of zeros, infinities, NaNs, negative
numbers and denormals (41_sqrt.md R121, R123, R125), for every format at once. -/

namespace Sys2Proof.Machine

/-! ## Fields (R121) -/

/-- What both formats have: at least one fraction bit, and exponents that reach well past the fraction. -/
structure FpFormat.Wide (f : FpFormat) : Prop where
  expBits_pos : 0 < f.expBits
  fracBits_pos : 0 < f.fracBits
  fracBits_lt_bias : f.fracBits + 3 ≤ f.bias

theorem binary64_wide : binary64.Wide := ⟨by decide, by decide, by decide⟩
theorem binary32_wide : binary32.Wide := ⟨by decide, by decide, by decide⟩

/-- The bits of an encoding. -/
abbrev FpFormat.width (f : FpFormat) : Nat := f.expBits + f.fracBits + 1

section
variable {f : FpFormat}

theorem FpFormat.frac_lt (v : Nat) : f.frac v < 2 ^ f.fracBits := Nat.mod_lt _ (Nat.two_pow_pos _)

/-- One more than the exponent field of infinities and NaNs. -/
theorem FpFormat.expMax_add_one : f.expMax + 1 = 2 ^ f.expBits := Nat.sub_add_cancel Nat.one_le_two_pow

theorem FpFormat.Wide.expMax_pos (hf : f.Wide) : 0 < f.expMax := by
  have h1 : 1 < 2 ^ f.expBits := Nat.one_lt_two_pow hf.expBits_pos.ne'
  have h2 : f.expMax + 1 = 2 ^ f.expBits := f.expMax_add_one
  omega

theorem FpFormat.signBit_eq : f.signBit = 2 ^ f.expBits * 2 ^ f.fracBits := pow_add ..

theorem FpFormat.quietBit_pos : 0 < f.quietBit := Nat.two_pow_pos _

/-- The fields of a number written as sign, exponent and fraction. -/
theorem FpFormat.frac_pack {a c : Nat} (hc : c < 2 ^ f.fracBits) : f.frac (a * 2 ^ f.fracBits + c) = c := by
  rw [frac, Nat.mul_add_mod_self_right, Nat.mod_eq_of_lt hc]

theorem FpFormat.exp_pack {a c : Nat} (hc : c < 2 ^ f.fracBits) :
    f.exp (a * 2 ^ f.fracBits + c) = a % 2 ^ f.expBits := by
  rw [exp, Nat.mul_comm, Nat.mul_add_div (Nat.two_pow_pos _), Nat.div_eq_of_lt hc, Nat.add_zero]

/-- An encoding without a sign bit is its exponent and its fraction. -/
theorem FpFormat.eq_pack {v : Nat} (h : v < f.signBit) : v = f.exp v * 2 ^ f.fracBits + f.frac v := by
  have hq : v / 2 ^ f.fracBits < 2 ^ f.expBits := Nat.div_lt_of_lt_mul (by rw [Nat.mul_comm, ← f.signBit_eq]; exact h)
  rw [exp, frac, Nat.mod_eq_of_lt hq, Nat.div_add_mod']

theorem FpFormat.denormal_eq_true {v : Nat} : f.denormal v = true ↔ f.exp v = 0 ∧ f.frac v ≠ 0 := by
  simp [denormal]

/-! ## The cases of `FpFormat.sqrt` (R123, R125) -/

/-- The DAZ step changes denormals only. -/
theorem FpFormat.afterDaz_of_not_denormal {v : Nat} {daz : Bool} (h : daz = true → f.denormal v = false) :
    f.afterDaz v daz = v := by
  cases daz with
  | false => rfl
  | true => rw [afterDaz, h rfl]; rfl

theorem FpFormat.denormal_of_exp_ne_zero {v : Nat} (h : f.exp v ≠ 0) : f.denormal v = false := by simp [denormal, h]

theorem FpFormat.denormal_of_frac_eq_zero {v : Nat} (h : f.frac v = 0) : f.denormal v = false := by simp [denormal, h]

section
variable {v : Nat} {rc : BitVec 2} {daz negD : Bool}

/-- NaNs: a quiet one comes back, a signalling one becomes quiet with I. -/
theorem FpFormat.sqrt_nan (hf : f.Wide) (he : f.exp v = f.expMax) (hfrac : f.frac v ≠ 0) :
    f.sqrt v rc daz negD =
      if f.quietBit ≤ f.frac v then (v, .none) else (v + f.quietBit, ⟨true, false, false⟩) := by
  have hx : f.afterDaz v daz = v :=
    afterDaz_of_not_denormal fun _ => denormal_of_exp_ne_zero (he ▸ hf.expMax_pos.ne')
  simp only [sqrt, hx]
  exact if_pos ⟨he, hfrac⟩

/-- Zeros come back. -/
theorem FpFormat.sqrt_of_afterDaz_zero (hf : f.Wide) (he : f.exp (f.afterDaz v daz) = 0)
    (hfrac : f.frac (f.afterDaz v daz) = 0) : f.sqrt v rc daz negD = (f.afterDaz v daz, .none) := by
  have hmax : (0 : Nat) ≠ f.expMax := hf.expMax_pos.ne
  simp [sqrt, he, hfrac, hmax]

/-- What is negative and neither a zero nor a NaN gives the indefinite with I. -/
theorem FpFormat.sqrt_of_negative (hx : f.afterDaz v daz = v) (hnan : f.exp v = f.expMax → f.frac v = 0)
    (hzero : f.exp v = 0 → f.frac v ≠ 0) (hneg : f.negative v = true) :
    f.sqrt v rc daz negD = (f.indefinite, ⟨true, f.denormal v && negD, false⟩) := by
  simp only [sqrt, hx]
  rw [if_neg (fun h => h.2 (hnan h.1)), if_neg (fun h => hzero h.1 h.2), if_pos hneg]

/-- Plus infinity comes back. -/
theorem FpFormat.sqrt_infinity (hf : f.Wide) (he : f.exp v = f.expMax) (hfrac : f.frac v = 0)
    (hneg : f.negative v = false) : f.sqrt v rc daz negD = (v, .none) := by
  have hx : f.afterDaz v daz = v := afterDaz_of_not_denormal fun _ => denormal_of_frac_eq_zero hfrac
  have hmax : f.expMax ≠ 0 := hf.expMax_pos.ne'
  simp [sqrt, hx, he, hfrac, hneg, hmax]

/-- A positive finite number is unpacked and its root rounded. -/
theorem FpFormat.sqrt_of_positive (hx : f.afterDaz v daz = v) (hfin : f.exp v ≠ f.expMax)
    (hzero : f.exp v = 0 → f.frac v ≠ 0) (hneg : f.negative v = false) :
    f.sqrt v rc daz negD =
      ((f.sqrtOf rc (f.unpack v).1 ((f.unpack v).2 - f.bias - f.fracBits)).1,
        ⟨false, f.denormal v, (f.sqrtOf rc (f.unpack v).1 ((f.unpack v).2 - f.bias - f.fracBits)).2⟩) := by
  simp only [sqrt, hx]
  rw [if_neg (fun h => hfin h.1), if_neg (fun h => hzero h.1 h.2), if_neg (by simp [hneg]), if_neg hfin]

end

/-! ## The same of bit vectors -/

/-- `FpFormat.sqrt` of a bit vector: `sqrt64` and `sqrt32` are this of their formats. -/
def FpFormat.sqrtBits (f : FpFormat) (v : BitVec f.width) (rc : BitVec 2) (daz negD : Bool) :
    BitVec f.width × FpFlags :=
  (BitVec.ofNat _ (f.sqrt v.toNat rc daz negD).1, (f.sqrt v.toNat rc daz negD).2)

theorem sqrt64_eq_sqrtBits (v : BitVec 64) (rc : BitVec 2) (daz : Bool) :
    sqrt64 v rc daz = binary64.sqrtBits v rc daz (Config.negDenormalRaisesD64 v rc) := rfl

theorem sqrt32_eq_sqrtBits (v : BitVec 32) (rc : BitVec 2) (daz : Bool) :
    sqrt32 v rc daz = binary32.sqrtBits v rc daz (Config.negDenormalRaisesD32 v rc) := rfl

section
variable {v : BitVec f.width} {rc : BitVec 2} {daz negD : Bool}

theorem FpFormat.exp_toNat (v : BitVec f.width) : f.exp v.toNat = (v.extractLsb' f.fracBits f.expBits).toNat := by
  rw [BitVec.extractLsb'_toNat, Nat.shiftRight_eq_div_pow, exp]

theorem FpFormat.frac_toNat (v : BitVec f.width) : f.frac v.toNat = (v.extractLsb' 0 f.fracBits).toNat := by
  rw [BitVec.extractLsb'_toNat, Nat.shiftRight_zero, frac]

theorem FpFormat.negative_toNat (v : BitVec f.width) :
    f.negative v.toNat = v.getLsbD (f.expBits + f.fracBits) := by
  exact (BitVec.msb_eq_decide v).symm.trans (BitVec.msb_eq_getLsbD_last v)

theorem FpFormat.expField_eq {n : Nat} (hn : n < 2 ^ f.expBits) :
    v.extractLsb' f.fracBits f.expBits = BitVec.ofNat _ n ↔ f.exp v.toNat = n := by
  rw [← BitVec.toNat_inj, ← exp_toNat, BitVec.toNat_ofNat, Nat.mod_eq_of_lt hn]

theorem FpFormat.expField_eq_zero : v.extractLsb' f.fracBits f.expBits = 0 ↔ f.exp v.toNat = 0 :=
  expField_eq (Nat.two_pow_pos _)

theorem FpFormat.expField_eq_max :
    v.extractLsb' f.fracBits f.expBits = BitVec.ofNat _ f.expMax ↔ f.exp v.toNat = f.expMax :=
  expField_eq (by rw [← f.expMax_add_one]; exact Nat.lt_succ_self _)

theorem FpFormat.fracField_eq_zero : v.extractLsb' 0 f.fracBits = 0 ↔ f.frac v.toNat = 0 := by
  rw [← BitVec.toNat_inj, ← frac_toNat]
  rfl

/-- The top fraction bit says whether the fraction reaches the quiet bit. -/
theorem FpFormat.Wide.quiet_toNat (hf : f.Wide) (v : BitVec f.width) :
    v.getLsbD (f.fracBits - 1) = decide (f.quietBit ≤ f.frac v.toNat) := by
  have hbit : (v.extractLsb' 0 f.fracBits).getLsbD (f.fracBits - 1) = v.getLsbD (f.fracBits - 1) := by
    have hlt : f.fracBits - 1 < f.fracBits := Nat.sub_one_lt hf.fracBits_pos.ne'
    simp [hlt]
  rw [← hbit, ← BitVec.msb_eq_getLsbD_last, BitVec.msb_eq_decide, ← frac_toNat]
  rfl

/-- A bit below the quiet bit is a bit of the fraction. -/
theorem FpFormat.frac_ne_zero_of_low (h : v.extractLsb' 0 (f.fracBits - 1) ≠ 0) : f.frac v.toNat ≠ 0 := by
  refine fun hz => h ?_
  rw [← BitVec.extractLsb'_extractLsb'_of_le (len' := f.fracBits) (by omega), fracField_eq_zero.2 hz]
  simp

theorem FpFormat.signBit_lt : f.signBit < 2 ^ f.width := Nat.pow_lt_pow_right (by decide) (Nat.lt_succ_self _)

theorem FpFormat.infinity_lt : f.expMax * 2 ^ f.fracBits < f.signBit := by
  rw [f.signBit_eq, ← f.expMax_add_one, Nat.succ_mul]
  exact Nat.lt_add_of_pos_right (Nat.two_pow_pos _)

theorem FpFormat.minusInfinity_lt : f.signBit + f.expMax * 2 ^ f.fracBits < 2 ^ f.width := by
  have h1 : f.expMax * 2 ^ f.fracBits < f.signBit := f.infinity_lt
  have h2 : 2 ^ f.width = f.signBit + f.signBit := by rw [width, pow_succ, signBit]; ring
  omega

/-- The exponent and fraction of the zeros and infinities. -/
theorem FpFormat.fields_zero : f.exp 0 = 0 ∧ f.frac 0 = 0 := by simp [exp, frac]

theorem FpFormat.fields_of_mul (a : Nat) :
    f.exp (a * 2 ^ f.fracBits) = a % 2 ^ f.expBits ∧ f.frac (a * 2 ^ f.fracBits) = 0 :=
  ⟨exp_pack (f := f) (a := a) (Nat.two_pow_pos _), frac_pack (f := f) (a := a) (Nat.two_pow_pos _)⟩

theorem FpFormat.fields_signBit : f.exp f.signBit = 0 ∧ f.frac f.signBit = 0 := by
  have h := f.fields_of_mul (2 ^ f.expBits)
  rwa [← f.signBit_eq, Nat.mod_self] at h

theorem FpFormat.fields_infinity :
    f.exp (f.expMax * 2 ^ f.fracBits) = f.expMax ∧ f.frac (f.expMax * 2 ^ f.fracBits) = 0 := by
  have h := f.fields_of_mul f.expMax
  rwa [Nat.mod_eq_of_lt (f.expMax_add_one ▸ Nat.lt_succ_self _)] at h

theorem FpFormat.fields_minusInfinity :
    f.exp (f.signBit + f.expMax * 2 ^ f.fracBits) = f.expMax ∧ f.frac (f.signBit + f.expMax * 2 ^ f.fracBits) = 0 := by
  have h := f.fields_of_mul (2 ^ f.expBits + f.expMax)
  rwa [Nat.add_mul, ← f.signBit_eq, Nat.add_mod_left, Nat.mod_eq_of_lt (f.expMax_add_one ▸ Nat.lt_succ_self _)] at h

theorem FpFormat.toNat_ofNat_of_lt {w n : Nat} (h : n < 2 ^ w) : (BitVec.ofNat w n).toNat = n := by
  rw [BitVec.toNat_ofNat, Nat.mod_eq_of_lt h]

theorem FpFormat.ofNat_two_pow (w k : Nat) : BitVec.ofNat w (2 ^ k) = BitVec.twoPow w k :=
  BitVec.eq_of_toNat_eq (by rw [BitVec.toNat_ofNat, BitVec.toNat_twoPow])

/-! ## The classes of R123 -/

/-- What comes back without a flag: zeros, plus infinity, quiet NaNs. -/
theorem FpFormat.sqrtBits_unchanged (hf : f.Wide)
    (h : v = 0 ∨ v = BitVec.ofNat _ f.signBit ∨ v = BitVec.ofNat _ (f.expMax * 2 ^ f.fracBits) ∨
      (v.extractLsb' f.fracBits f.expBits = BitVec.ofNat _ f.expMax ∧ v.getLsbD (f.fracBits - 1) = true)) :
    f.sqrtBits v rc daz negD = (v, .none) := by
  suffices hs : f.sqrt v.toNat rc daz negD = (v.toNat, .none) by
    rw [sqrtBits, hs, BitVec.ofNat_toNat, BitVec.setWidth_eq]
  have hzero : f.exp v.toNat = 0 ∧ f.frac v.toNat = 0 → f.sqrt v.toNat rc daz negD = (v.toNat, .none) := by
    rintro ⟨he, hfrac⟩
    have hx : f.afterDaz v.toNat daz = v.toNat := afterDaz_of_not_denormal fun _ => denormal_of_frac_eq_zero hfrac
    have hs := sqrt_of_afterDaz_zero (rc := rc) (daz := daz) (negD := negD) hf (hx.symm ▸ he) (hx.symm ▸ hfrac)
    rwa [hx] at hs
  obtain rfl | rfl | rfl | ⟨he, hq⟩ := h
  · exact hzero fields_zero
  · rw [toNat_ofNat_of_lt f.signBit_lt] at hzero ⊢
    exact hzero fields_signBit
  · rw [toNat_ofNat_of_lt (f.infinity_lt.trans f.signBit_lt)]
    exact sqrt_infinity hf fields_infinity.1 fields_infinity.2 (decide_eq_false (Nat.not_le.2 f.infinity_lt))
  · have hquiet : f.quietBit ≤ f.frac v.toNat := of_decide_eq_true ((hf.quiet_toNat v).symm.trans hq)
    rw [sqrt_nan hf (expField_eq_max.1 he) (f.quietBit_pos.trans_le hquiet).ne', if_pos hquiet]

/-- A signalling NaN becomes quiet, with I. -/
theorem FpFormat.sqrtBits_signalling (hf : f.Wide)
    (he : v.extractLsb' f.fracBits f.expBits = BitVec.ofNat _ f.expMax) (hq : v.getLsbD (f.fracBits - 1) = false)
    (hlow : v.extractLsb' 0 (f.fracBits - 1) ≠ 0) :
    f.sqrtBits v rc daz negD = (v ||| BitVec.ofNat _ f.quietBit, ⟨true, false, false⟩) := by
  have hquiet : ¬ f.quietBit ≤ f.frac v.toNat := of_decide_eq_false ((hf.quiet_toNat v).symm.trans hq)
  have hor : v + BitVec.ofNat _ f.quietBit = v ||| BitVec.ofNat _ f.quietBit := by
    refine BitVec.add_eq_or_of_and_eq_zero _ _ ?_
    rw [quietBit, ofNat_two_pow, BitVec.and_twoPow, hq]
    rfl
  rw [sqrtBits, sqrt_nan hf (expField_eq_max.1 he) (frac_ne_zero_of_low hlow), if_neg hquiet, BitVec.ofNat_add,
    BitVec.ofNat_toNat, BitVec.setWidth_eq, hor]

/-- Minus infinity and negative normal numbers give the indefinite with I alone. -/
theorem FpFormat.sqrtBits_negative (hf : f.Wide)
    (h : v = BitVec.ofNat _ (f.signBit + f.expMax * 2 ^ f.fracBits) ∨
      (v.getLsbD (f.expBits + f.fracBits) = true ∧ v.extractLsb' f.fracBits f.expBits ≠ 0 ∧
        v.extractLsb' f.fracBits f.expBits ≠ BitVec.ofNat _ f.expMax)) :
    f.sqrtBits v rc daz negD = (BitVec.ofNat _ f.indefinite, ⟨true, false, false⟩) := by
  obtain ⟨hneg, hexp, hnan⟩ : f.negative v.toNat = true ∧ f.exp v.toNat ≠ 0 ∧
      (f.exp v.toNat = f.expMax → f.frac v.toNat = 0) := by
    obtain rfl | ⟨hs, h0, hmax⟩ := h
    · rw [toNat_ofNat_of_lt f.minusInfinity_lt, fields_minusInfinity.1]
      exact ⟨decide_eq_true (Nat.le_add_right ..), hf.expMax_pos.ne', fun _ => fields_minusInfinity.2⟩
    · exact ⟨(negative_toNat v).trans hs, mt expField_eq_zero.2 h0, fun he => absurd (expField_eq_max.2 he) hmax⟩
  have hden : f.denormal v.toNat = false := denormal_of_exp_ne_zero hexp
  rw [sqrtBits, sqrt_of_negative (afterDaz_of_not_denormal fun _ => hden) hnan (fun h0 => absurd h0 hexp) hneg, hden]
  rfl

/-! ## Denormals (R125) -/

/-- With DAZ a denormal gives the zero of its sign. -/
theorem FpFormat.sqrtBits_denormal_daz (hf : f.Wide) (he : v.extractLsb' f.fracBits f.expBits = 0)
    (hfrac : v.extractLsb' 0 f.fracBits ≠ 0) :
    f.sqrtBits v rc true negD = (v &&& BitVec.ofNat _ f.signBit, .none) := by
  have hden : f.denormal v.toNat = true := denormal_eq_true.2 ⟨expField_eq_zero.1 he, mt fracField_eq_zero.2 hfrac⟩
  have hx : f.afterDaz v.toNat true = if v.getLsbD (f.expBits + f.fracBits) then f.signBit else 0 := by
    rw [afterDaz, hden, negative_toNat]
    rfl
  have hfields : f.exp (f.afterDaz v.toNat true) = 0 ∧ f.frac (f.afterDaz v.toNat true) = 0 := by
    rw [hx]
    split
    · exact fields_signBit
    · exact fields_zero
  rw [sqrtBits, sqrt_of_afterDaz_zero hf hfields.1 hfields.2, hx, signBit, ofNat_two_pow, BitVec.and_twoPow]
  split
  · rw [ofNat_two_pow]
  · rfl

/-- Without DAZ a positive denormal raises D and not I. -/
theorem FpFormat.sqrtBits_denormal_positive (hf : f.Wide) (he : v.extractLsb' f.fracBits f.expBits = 0)
    (hfrac : v.extractLsb' 0 f.fracBits ≠ 0) (hs : v.getLsbD (f.expBits + f.fracBits) = false) :
    (f.sqrtBits v rc false negD).2.d = true ∧ (f.sqrtBits v rc false negD).2.i = false := by
  have h0 := expField_eq_zero.1 he
  have h1 := mt fracField_eq_zero.2 hfrac
  rw [sqrtBits, sqrt_of_positive rfl (h0 ▸ hf.expMax_pos.ne) (fun _ => h1) ((negative_toNat v).trans hs)]
  exact ⟨denormal_eq_true.2 ⟨h0, h1⟩, rfl⟩

/-- Without DAZ a negative denormal gives the indefinite with I and not P. -/
theorem FpFormat.sqrtBits_denormal_negative (hf : f.Wide) (he : v.extractLsb' f.fracBits f.expBits = 0)
    (hfrac : v.extractLsb' 0 f.fracBits ≠ 0) (hs : v.getLsbD (f.expBits + f.fracBits) = true) :
    (f.sqrtBits v rc false negD).1 = BitVec.ofNat _ f.indefinite ∧ (f.sqrtBits v rc false negD).2.i = true ∧
      (f.sqrtBits v rc false negD).2.p = false := by
  have h0 := expField_eq_zero.1 he
  have h1 := mt fracField_eq_zero.2 hfrac
  rw [sqrtBits, sqrt_of_negative rfl (fun hm => absurd (h0.symm.trans hm) hf.expMax_pos.ne) (fun _ => h1)
    ((negative_toNat v).trans hs)]
  exact ⟨rfl, rfl, rfl⟩

end
end

/-! ## The obligations -/

/-- Settles O33, class by class in both formats. -/
theorem specialRoots : Obligations.SpecialRoots := by
  constructor
  · intro v rc daz
    rw [sqrt64_eq_sqrtBits]
    exact ⟨FpFormat.sqrtBits_unchanged binary64_wide,
      fun ⟨he, hq, hlow⟩ => FpFormat.sqrtBits_signalling binary64_wide he hq hlow,
      FpFormat.sqrtBits_negative binary64_wide⟩
  · intro v rc daz
    rw [sqrt32_eq_sqrtBits]
    exact ⟨FpFormat.sqrtBits_unchanged binary32_wide,
      fun ⟨he, hq, hlow⟩ => FpFormat.sqrtBits_signalling binary32_wide he hq hlow,
      FpFormat.sqrtBits_negative binary32_wide⟩

/-- Settles O34, in both formats: with DAZ, and without it by sign. -/
theorem denormalRoots : Obligations.DenormalRoots := by
  constructor
  · intro v rc he hfrac
    rw [sqrt64_eq_sqrtBits, sqrt64_eq_sqrtBits]
    exact ⟨FpFormat.sqrtBits_denormal_daz binary64_wide he hfrac,
      FpFormat.sqrtBits_denormal_positive binary64_wide he hfrac,
      FpFormat.sqrtBits_denormal_negative binary64_wide he hfrac⟩
  · intro v rc he hfrac
    rw [sqrt32_eq_sqrtBits, sqrt32_eq_sqrtBits]
    exact ⟨FpFormat.sqrtBits_denormal_daz binary32_wide he hfrac,
      FpFormat.sqrtBits_denormal_positive binary32_wide he hfrac,
      FpFormat.sqrtBits_denormal_negative binary32_wide he hfrac⟩

end Sys2Proof.Machine
end

section
/-! PROOFS. The roots of positive finite numbers are correctly rounded (41_sqrt.md R124), for every format at once. -/

namespace Sys2Proof.Machine

section
variable {f : FpFormat}

/-! ## Values as multiples of the smallest denormal -/

/-- The value of an encoding, in units of the smallest denormal. -/
def FpFormat.ulps (f : FpFormat) (v : Nat) : Nat :=
  if f.exp v = 0 then f.frac v else (2 ^ f.fracBits + f.frac v) * 2 ^ (f.exp v - 1)

theorem FpFormat.value_eq_ulps (v : Nat) : f.value v = f.ulps v * 2 ^ ((1 : Int) - f.bias - f.fracBits) := by
  unfold value ulps
  split
  · rfl
  · next he =>
    have hexp : (f.exp v : Int) - f.bias - f.fracBits = ((f.exp v - 1 : Nat) : Int) + (1 - f.bias - f.fracBits) := by
      omega
    rw [hexp, zpow_add₀ two_ne_zero, zpow_natCast]
    push_cast
    ring

theorem FpFormat.value_nonneg (v : Nat) : 0 ≤ f.value v := by
  rw [value_eq_ulps]
  positivity

/-- A significand of one bit more than the fraction, with the next power of two, at an exponent field that is not 0. -/
theorem FpFormat.ulps_pack {b c : Nat} (hb : 0 < b) (hmax : b < f.expMax) (hc : c ≤ 2 ^ f.fracBits) :
    f.ulps (b * 2 ^ f.fracBits + c) = (2 ^ f.fracBits + c) * 2 ^ (b - 1) := by
  have hpow : f.expMax + 1 = 2 ^ f.expBits := f.expMax_add_one
  obtain hlt | rfl := hc.lt_or_eq
  · have hexp : f.exp (b * 2 ^ f.fracBits + c) = b := by rw [exp_pack hlt, Nat.mod_eq_of_lt (by omega)]
    rw [ulps, hexp, frac_pack hlt, if_neg hb.ne']
  · have hfields := f.fields_of_mul (b + 1)
    rw [Nat.mod_eq_of_lt (by omega)] at hfields
    obtain ⟨n, rfl⟩ : ∃ n, b = n + 1 := ⟨b - 1, by omega⟩
    rw [← Nat.succ_mul, ulps, hfields.1, hfields.2, if_neg (by omega)]
    simp only [Nat.add_sub_cancel, pow_succ]
    ring

/-- Up to the smallest normal number an encoding counts its units. -/
theorem FpFormat.ulps_of_le {v : Nat} (hmax : 0 < f.expMax) (hv : v ≤ 2 ^ f.fracBits) : f.ulps v = v := by
  have hpow : f.expMax + 1 = 2 ^ f.expBits := f.expMax_add_one
  obtain hlt | rfl := hv.lt_or_eq
  · have hexp : f.exp v = 0 := by simp [exp, Nat.div_eq_of_lt hlt]
    rw [ulps, if_pos hexp]
    exact Nat.mod_eq_of_lt hlt
  · have hfields := f.fields_of_mul 1
    rw [Nat.one_mul, Nat.mod_eq_of_lt (by omega)] at hfields
    rw [ulps, hfields.1, hfields.2]
    simp

/-- The exponent field of a finite number. -/
theorem FpFormat.exp_lt_of_finite {v : Nat} (h : v < f.expMax * 2 ^ f.fracBits) : f.exp v < f.expMax := by
  have hv := f.eq_pack (h.trans f.infinity_lt)
  exact Nat.lt_of_mul_lt_mul_right (a := 2 ^ f.fracBits) (by omega)

/-- The next encoding has a greater value. -/
theorem FpFormat.ulps_lt_succ {v : Nat} (h : v < f.expMax * 2 ^ f.fracBits) : f.ulps v < f.ulps (v + 1) := by
  have hv := f.eq_pack (h.trans f.infinity_lt)
  have hc : f.frac v < 2 ^ f.fracBits := f.frac_lt v
  have hmax := exp_lt_of_finite h
  obtain hb | hb := Nat.eq_zero_or_pos (f.exp v)
  · have hlt : v < 2 ^ f.fracBits := by
      rw [hb] at hv
      omega
    rw [ulps_of_le (by omega) hlt.le, ulps_of_le (by omega) hlt]
    exact Nat.lt_succ_self v
  · have hnext : v + 1 = f.exp v * 2 ^ f.fracBits + (f.frac v + 1) := by omega
    have hcur : f.ulps v = (2 ^ f.fracBits + f.frac v) * 2 ^ (f.exp v - 1) := if_neg hb.ne'
    rw [hnext, ulps_pack hb hmax hc, hcur]
    exact Nat.mul_lt_mul_of_pos_right (by omega) (Nat.two_pow_pos _)

/-- Finite encodings without a sign are ordered as their values. -/
theorem FpFormat.value_lt {u v : Nat} (huv : u < v) (hv : v ≤ f.expMax * 2 ^ f.fracBits) : f.value u < f.value v := by
  have hulps : f.ulps u < f.ulps v := by
    induction v, huv using Nat.le_induction with
    | base => exact ulps_lt_succ hv
    | succ v _ ih => exact (ih (Nat.le_of_succ_le hv)).trans (ulps_lt_succ hv)
  rw [value_eq_ulps, value_eq_ulps]
  exact mul_lt_mul_of_pos_right (by exact_mod_cast hulps) (by positivity)

theorem FpFormat.value_le {u v : Nat} (huv : u ≤ v) (hv : v ≤ f.expMax * 2 ^ f.fracBits) : f.value u ≤ f.value v := by
  obtain hlt | rfl := huv.lt_or_eq
  · exact (value_lt hlt hv).le
  · exact le_rfl

/-- The value of an encoding written as exponent field and fraction, the fraction perhaps carrying over. -/
theorem FpFormat.value_pack {b c : Nat} (hb : 0 < b) (hmax : b < f.expMax) (hc : c ≤ 2 ^ f.fracBits) :
    f.value (b * 2 ^ f.fracBits + c) = ((2 ^ f.fracBits + c : Nat) : ℚ) * 2 ^ ((b : Int) - f.bias - f.fracBits) := by
  have hexp : (b : Int) - f.bias - f.fracBits = ((b - 1 : Nat) : Int) + (1 - f.bias - f.fracBits) := by omega
  rw [value_eq_ulps, ulps_pack hb hmax hc, hexp, zpow_add₀ two_ne_zero, zpow_natCast]
  push_cast
  ring

/-! ## Unpacking -/

theorem FpFormat.Wide.expMax_eq (hf : f.Wide) : f.expMax = 2 * f.bias + 1 := by
  have hpos : 0 < 2 ^ (f.expBits - 1) := Nat.two_pow_pos _
  have hpow : 2 ^ (f.expBits - 1) * 2 = 2 ^ f.expBits := pow_sub_one_mul hf.expBits_pos.ne' 2
  rw [expMax, bias]
  omega

/-- Normalising shifts a positive number left until its top bit is in place. -/
theorem normalise_spec {fb fuel m : Nat} (hm : m < 2 ^ (fb + 1)) (hfuel : 2 ^ fb ≤ m * 2 ^ fuel) :
    (normalise fb fuel m).1 = m * 2 ^ (normalise fb fuel m).2 ∧ 2 ^ fb ≤ (normalise fb fuel m).1 ∧
      (normalise fb fuel m).1 < 2 ^ (fb + 1) ∧ (normalise fb fuel m).2 ≤ fuel := by
  induction fuel generalizing m with
  | zero => exact ⟨(Nat.mul_one m).symm, (Nat.mul_one m) ▸ hfuel, hm, le_rfl⟩
  | succ fuel ih =>
    rw [normalise]
    split
    · next hle => exact ⟨(Nat.mul_one m).symm, hle, hm, Nat.zero_le _⟩
    · next hgt =>
      obtain ⟨h1, h2, h3, h4⟩ := ih (m := 2 * m) (by rw [pow_succ]; omega)
        (by rw [pow_succ] at hfuel; linarith)
      refine ⟨?_, h2, h3, Nat.succ_le_succ h4⟩
      rw [h1, pow_succ]
      ring

/-- A positive finite number is its significand, of one bit more than the fraction, at its exponent. -/
theorem FpFormat.unpack_spec (hf : f.Wide) {v : Nat} (h0 : 0 < v) (hfin : v < f.expMax * 2 ^ f.fracBits) :
    f.value v = (f.unpack v).1 * 2 ^ ((f.unpack v).2 - f.bias - f.fracBits) ∧
      2 ^ f.fracBits ≤ (f.unpack v).1 ∧ (f.unpack v).1 < 2 ^ (f.fracBits + 1) ∧
      1 - (f.fracBits : Int) ≤ (f.unpack v).2 ∧ (f.unpack v).2 < f.expMax := by
  have hv := f.eq_pack (hfin.trans f.infinity_lt)
  have hc : f.frac v < 2 ^ f.fracBits := f.frac_lt v
  have hmax := exp_lt_of_finite hfin
  have hexpMax := hf.expMax_eq
  have hbias := hf.fracBits_lt_bias
  have hpow : 2 ^ (f.fracBits + 1) = 2 ^ f.fracBits * 2 := pow_succ ..
  rw [unpack, value]
  split
  · next he =>
    have hfrac : 0 < f.frac v := by
      rw [he] at hv
      omega
    obtain ⟨h1, h2, h3, h4⟩ := normalise_spec (fb := f.fracBits) (fuel := f.fracBits) (m := f.frac v) (by omega)
      (Nat.le_mul_of_pos_left _ hfrac)
    generalize normalise f.fracBits f.fracBits (f.frac v) = n at *
    refine ⟨?_, h2, h3, by simp only; omega, by simp only; omega⟩
    have hexp : (1 : Int) - f.bias - f.fracBits = (n.2 : Int) + (1 - n.2 - f.bias - f.fracBits) := by ring
    rw [hexp, zpow_add₀ two_ne_zero, zpow_natCast, h1]
    push_cast
    ring
  · exact ⟨rfl, Nat.le_add_right .., by simp only; omega, by simp only; omega, by simp only; omega⟩

/-! ## The integer root -/

/-- The shift of `FpFormat.sqrtOf`: it makes the exponent even. -/
def FpFormat.rootShift (f : FpFormat) (e : Int) : Nat := if (e - f.fracBits) % 2 = 0 then f.fracBits else f.fracBits + 1

theorem FpFormat.rootShift_spec (e : Int) :
    2 * ((e - f.rootShift e) / 2) = e - f.rootShift e ∧
      (f.rootShift e = f.fracBits ∨ f.rootShift e = f.fracBits + 1) := by
  unfold rootShift
  split
  · exact ⟨by omega, .inl rfl⟩
  · exact ⟨by push_cast; omega, .inr rfl⟩

/-- The root of a radicand of `2 * t + 1` or `2 * t + 2` bits has `t + 1` bits. -/
theorem isqrt_bounds {t n : Nat} (hlo : 2 ^ t * 2 ^ t ≤ n) (hhi : n < 2 ^ (t + 1) * 2 ^ (t + 1)) :
    2 ^ t ≤ isqrt (t + 1) n ∧ isqrt (t + 1) n < 2 ^ (t + 1) := by
  obtain ⟨h1, h2⟩ := isqrt_spec hhi
  exact ⟨Nat.le_of_lt_succ (Nat.mul_self_lt_mul_self_iff.1 (hlo.trans_lt h2)),
    Nat.mul_self_lt_mul_self_iff.1 (h1.trans_lt hhi)⟩

/-- The radicand of `FpFormat.sqrtOf`. -/
def FpFormat.radicand (f : FpFormat) (m : Nat) (e : Int) : Nat := m * 2 ^ f.rootShift e

/-- It has `2 * fracBits + 1` or `2 * fracBits + 2` bits. -/
theorem FpFormat.radicand_bounds {m : Nat} (e : Int) (hm : 2 ^ f.fracBits ≤ m) (hm' : m < 2 ^ (f.fracBits + 1)) :
    2 ^ f.fracBits * 2 ^ f.fracBits ≤ f.radicand m e ∧
      f.radicand m e < 2 ^ (f.fracBits + 1) * 2 ^ (f.fracBits + 1) := by
  have hk : f.fracBits ≤ f.rootShift e ∧ f.rootShift e ≤ f.fracBits + 1 := by
    obtain ⟨-, h | h⟩ := f.rootShift_spec e <;> omega
  exact ⟨Nat.mul_le_mul hm (Nat.pow_le_pow_right two_pos hk.1),
    Nat.mul_lt_mul_of_lt_of_le hm' (Nat.pow_le_pow_right two_pos hk.2) (Nat.two_pow_pos _)⟩

/-- The radicand at half the exponent that is left, squared, is the number. -/
theorem FpFormat.radicand_value (m : Nat) (e : Int) :
    (m : ℚ) * 2 ^ e = (f.radicand m e : ℚ) * (2 ^ ((e - f.rootShift e) / 2)) ^ 2 := by
  have hexp : e = (f.rootShift e : Int) + 2 * ((e - f.rootShift e) / 2) := by
    have := (f.rootShift_spec e).1
    omega
  have hsq : (2 : ℚ) ^ (2 * ((e - f.rootShift e) / 2)) = (2 ^ ((e - f.rootShift e) / 2)) ^ 2 := zpow_mul' ..
  conv_lhs => rw [hexp, zpow_add₀ two_ne_zero, zpow_natCast]
  rw [← hsq, radicand]
  push_cast
  exact (mul_assoc ..).symm

/-- The parts of `FpFormat.sqrtOf`: the root `q` of the radicand rounded down, what remains, and the exponent field
`b`. -/
theorem FpFormat.sqrtOf_spec (hf : f.Wide) {m : Nat} {e : Int} (rc : BitVec 2) (hm : 2 ^ f.fracBits ≤ m)
    (hm' : m < 2 ^ (f.fracBits + 1)) (hlo : 1 - 2 * (f.fracBits : Int) - f.bias ≤ e)
    (hhi : e + f.bias + f.fracBits < f.expMax) :
    ∃ q rem b : Nat, f.sqrtOf rc m e =
        (b * 2 ^ f.fracBits + (q + (if roundsUp rc q rem then 1 else 0) - 2 ^ f.fracBits), decide (rem ≠ 0)) ∧
      2 ^ f.fracBits ≤ q ∧ q < 2 ^ (f.fracBits + 1) ∧ rem ≤ 2 * q ∧ 0 < b ∧ b + 1 < f.expMax ∧
      (m : ℚ) * 2 ^ e = ((q * q + rem : Nat) : ℚ) * (2 ^ ((b : Int) - f.bias - f.fracBits)) ^ 2 := by
  have hexpMax := hf.expMax_eq
  have hbias := hf.fracBits_lt_bias
  obtain ⟨heven, hshift⟩ := f.rootShift_spec e
  obtain ⟨hnlo, hnhi⟩ := radicand_bounds e hm hm'
  obtain ⟨hle, hlt⟩ := isqrt_spec hnhi
  obtain ⟨hqlo, hqhi⟩ := isqrt_bounds hnlo hnhi
  have hb : (((e - f.rootShift e) / 2 + f.fracBits + f.bias).toNat : Int) =
      (e - f.rootShift e) / 2 + f.fracBits + f.bias := Int.toNat_of_nonneg (by omega)
  refine ⟨isqrt (f.fracBits + 1) (f.radicand m e),
    f.radicand m e - isqrt (f.fracBits + 1) (f.radicand m e) * isqrt (f.fracBits + 1) (f.radicand m e),
    ((e - f.rootShift e) / 2 + f.fracBits + f.bias).toNat, rfl, hqlo, hqhi, ?rem, by omega, by omega, ?value⟩
  case rem =>
    rw [Nat.succ_mul, Nat.mul_succ] at hlt
    omega
  case value =>
    have hj : (((e - f.rootShift e) / 2 + f.fracBits + f.bias).toNat : Int) - f.bias - f.fracBits =
        (e - f.rootShift e) / 2 := by omega
    rw [hj, Nat.add_sub_cancel' hle, radicand_value]

/-! ## Rounding -/

section
variable {r q rem : Nat} {x y : ℚ}

/-- Multiples of `y ^ 2` are ordered as the natural numbers they are multiples by. -/
theorem nat_mul_sq_lt (hy : 0 < y) {a b : Nat} : (a : ℚ) * y ^ 2 < b * y ^ 2 ↔ a < b := by
  rw [mul_lt_mul_iff_left₀ (pow_pos hy 2), Nat.cast_lt]

/-- The exact root is past the midpoint of `q * y` and `(q + 1) * y` exactly when `q < rem`. -/
theorem midpoint_sq_lt (hy : 0 < y) (hx : x = ((q * q + rem : Nat) : ℚ) * y ^ 2) :
    (q * y + (q + 1) * y) ^ 2 < 4 * x ↔ q < rem := by
  have hl : (q * y + (q + 1) * y) ^ 2 = ((4 * (q * q) + 4 * q + 1 : Nat) : ℚ) * y ^ 2 := by push_cast; ring
  have hr : 4 * x = ((4 * (q * q) + 4 * rem : Nat) : ℚ) * y ^ 2 := by rw [hx]; push_cast; ring
  rw [hl, hr, nat_mul_sq_lt hy]
  omega

/-- It is before the midpoint otherwise: there is no tie. -/
theorem lt_midpoint_sq (hy : 0 < y) (hx : x = ((q * q + rem : Nat) : ℚ) * y ^ 2) :
    4 * x < (q * y + (q + 1) * y) ^ 2 ↔ rem ≤ q := by
  have hl : (q * y + (q + 1) * y) ^ 2 = ((4 * (q * q) + 4 * q + 1 : Nat) : ℚ) * y ^ 2 := by push_cast; ring
  have hr : 4 * x = ((4 * (q * q) + 4 * rem : Nat) : ℚ) * y ^ 2 := by rw [hx]; push_cast; ring
  rw [hl, hr, nat_mul_sq_lt hy]
  omega

/-- The exact root is above `q * y` exactly when something remains. -/
theorem floor_sq_lt (hy : 0 < y) (hx : x = ((q * q + rem : Nat) : ℚ) * y ^ 2) : (q * y) ^ 2 < x ↔ rem ≠ 0 := by
  have hl : (q * y) ^ 2 = ((q * q : Nat) : ℚ) * y ^ 2 := by push_cast; ring
  rw [hl, hx, nat_mul_sq_lt hy]
  omega

theorem floor_sq_le (hx : x = ((q * q + rem : Nat) : ℚ) * y ^ 2) : (q * y) ^ 2 ≤ x := by
  have hl : (q * y) ^ 2 = ((q * q : Nat) : ℚ) * y ^ 2 := by push_cast; ring
  rw [hl, hx]
  exact mul_le_mul_of_nonneg_right (by exact_mod_cast Nat.le_add_right ..) (sq_nonneg y)

/-- The exact root is below `(q + 1) * y`. -/
theorem lt_ceil_sq (hy : 0 < y) (hx : x = ((q * q + rem : Nat) : ℚ) * y ^ 2) (hrem : rem ≤ 2 * q) :
    x < ((q + 1) * y) ^ 2 := by
  have hr : ((q + 1) * y) ^ 2 = ((q * q + 2 * q + 1 : Nat) : ℚ) * y ^ 2 := by push_cast; ring
  rw [hr, hx, nat_mul_sq_lt hy]
  omega

/-- With the exact root `√x` from the value at `r` on and before that at `r + 1`, the direction that `roundsUp` takes is
the rounded one. -/
theorem FpFormat.isRoundedRoot_of_bracket (rc : BitVec 2) (hy : 0 < y) (hx : x = ((q * q + rem : Nat) : ℚ) * y ^ 2)
    (hrem : rem ≤ 2 * q) (h0 : f.value r = q * y) (h1 : f.value (r + 1) = (q + 1) * y)
    (hbelow : f.value (r - 1) < f.value r) (habove : f.value (r + 1) < f.value (r + 2)) :
    f.isRoundedRoot rc x (r + if roundsUp rc q rem then 1 else 0) := by
  have hfloor : f.value r ^ 2 ≤ x := h0 ▸ floor_sq_le hx
  have hceil : x < f.value (r + 1) ^ 2 := h1 ▸ lt_ceil_sq hy hx hrem
  unfold isRoundedRoot roundsUp
  split_ifs with hnearest hup hupward hup hnever
  · have hmid := (midpoint_sq_lt hy hx).2 (of_decide_eq_true hup)
    rw [← h0, ← h1] at hmid
    refine ⟨hmid, ?_⟩
    calc 4 * x < (f.value (r + 1) + f.value (r + 1)) ^ 2 := by linarith
      _ < (f.value (r + 1) + f.value (r + 2)) ^ 2 :=
        pow_lt_pow_left₀ (by linarith) (add_nonneg (value_nonneg _) (value_nonneg _)) two_ne_zero
  · have hmid := (lt_midpoint_sq hy hx).2 (by simpa using hup)
    rw [← h0, ← h1] at hmid
    refine ⟨?_, hmid⟩
    calc (f.value (r - 1) + f.value r) ^ 2 < (f.value r + f.value r) ^ 2 :=
        pow_lt_pow_left₀ (by linarith) (add_nonneg (value_nonneg _) (value_nonneg _)) two_ne_zero
      _ ≤ 4 * x := by linarith
  · have hinexact := (floor_sq_lt hy hx).2 (of_decide_eq_true hup)
    rw [← h0] at hinexact
    exact ⟨hinexact, hceil.le⟩
  · have hexact := mt (floor_sq_lt hy hx).1 (by simpa using hup)
    rw [← h0] at hexact
    exact ⟨(pow_lt_pow_left₀ hbelow (value_nonneg _) two_ne_zero).trans_le hfloor, not_lt.1 hexact⟩
  · exact hnever.elim
  · exact ⟨hfloor, hceil⟩

end

/-! ## The theorem for every format -/

/-- Something remains exactly when no finite number is the root: between the values at `r` and `r + 1` there is none. -/
theorem FpFormat.no_exact_root {r q rem : Nat} {x y : ℚ} (hy : 0 < y) (hx : x = ((q * q + rem : Nat) : ℚ) * y ^ 2)
    (hrem : rem ≤ 2 * q) (h0 : f.value r = q * y) (h1 : f.value (r + 1) = (q + 1) * y)
    (hr : r + 1 < f.expMax * 2 ^ f.fracBits) :
    rem ≠ 0 ↔ ∀ u, u < f.expMax * 2 ^ f.fracBits → f.value u ^ 2 ≠ x := by
  constructor
  · intro hinexact u hu
    have hfloor := (floor_sq_lt hy hx).2 hinexact
    have hceil := lt_ceil_sq hy hx hrem
    rw [← h0] at hfloor
    rw [← h1] at hceil
    obtain hlt | hle := Nat.lt_or_ge r u
    · exact (hceil.trans_le (pow_le_pow_left₀ (value_nonneg _) (value_le hlt hu.le) 2)).ne'
    · exact ((pow_le_pow_left₀ (value_nonneg u) (value_le hle (by omega)) 2).trans_lt hfloor).ne
  · intro hnone hexact
    refine hnone r (by omega) ?_
    rw [h0, hx, hexact]
    push_cast
    ring

/-- A positive number is not a zero. -/
theorem FpFormat.frac_ne_zero_of_pos {v : Nat} (hpos : 0 < v) (hs : v < f.signBit) (he : f.exp v = 0) :
    f.frac v ≠ 0 := by
  have hv := f.eq_pack hs
  rw [he] at hv
  omega

/-- The denormals are the positive numbers below the smallest normal one. -/
theorem FpFormat.denormal_iff_lt {v : Nat} (hpos : 0 < v) (hs : v < f.signBit) :
    f.denormal v = true ↔ v < 2 ^ f.fracBits := by
  rw [denormal_eq_true]
  constructor
  · rintro ⟨he, -⟩
    have hv := f.eq_pack hs
    have hc : f.frac v < 2 ^ f.fracBits := f.frac_lt v
    rw [he] at hv
    omega
  · intro hlt
    have he : f.exp v = 0 := by simp [exp, Nat.div_eq_of_lt hlt]
    exact ⟨he, frac_ne_zero_of_pos hpos hs he⟩

/-- The rounding of the root of a significand `m` at an exponent `e`, and when it is exact. -/
theorem FpFormat.sqrtOf_correctly_rounded (hf : f.Wide) {m : Nat} {e : Int} (rc : BitVec 2) (hm : 2 ^ f.fracBits ≤ m)
    (hm' : m < 2 ^ (f.fracBits + 1)) (hlo : 1 - 2 * (f.fracBits : Int) - f.bias ≤ e)
    (hhi : e + f.bias + f.fracBits < f.expMax) :
    f.isRoundedRoot rc (m * 2 ^ e) (f.sqrtOf rc m e).1 ∧
      ((f.sqrtOf rc m e).2 = true ↔ ∀ r, r < f.expMax * 2 ^ f.fracBits → f.value r ^ 2 ≠ m * 2 ^ e) ∧
      (f.sqrtOf rc m e).1 < f.expMax * 2 ^ f.fracBits := by
  obtain ⟨q, rem, b, hroot, hq, hq', hrem, hb, hb', hrad⟩ := sqrtOf_spec hf rc hm hm' hlo hhi
  obtain ⟨c, rfl⟩ := Nat.exists_eq_add_of_le hq
  have hc : c + 1 ≤ 2 ^ f.fracBits := by
    rw [pow_succ] at hq'
    omega
  have hy : (0 : ℚ) < 2 ^ ((b : Int) - f.bias - f.fracBits) := by positivity
  have hr : b * 2 ^ f.fracBits + c + 2 ≤ f.expMax * 2 ^ f.fracBits := by
    calc b * 2 ^ f.fracBits + c + 2 ≤ (b + 2) * 2 ^ f.fracBits := by rw [Nat.add_mul]; omega
      _ ≤ f.expMax * 2 ^ f.fracBits := Nat.mul_le_mul_right _ hb'
  have h0 := value_pack (f := f) hb (by omega) (Nat.le_of_succ_le hc)
  have h1 := value_pack (f := f) hb (by omega) hc
  have hcast : ((2 ^ f.fracBits + (c + 1) : Nat) : ℚ) = ((2 ^ f.fracBits + c : Nat) : ℚ) + 1 := by push_cast; ring
  rw [hcast] at h1
  have hbelow : f.value (b * 2 ^ f.fracBits + c - 1) < f.value (b * 2 ^ f.fracBits + c) :=
    value_lt (Nat.sub_one_lt (Nat.ne_of_gt (Nat.add_pos_left (Nat.mul_pos hb (Nat.two_pow_pos _)) c))) (by omega)
  have hround := isRoundedRoot_of_bracket rc hy hrad hrem h0 h1 hbelow (value_lt (Nat.lt_succ_self _) hr)
  have hencode : ∀ up, b * 2 ^ f.fracBits + (2 ^ f.fracBits + c + up - 2 ^ f.fracBits) =
      b * 2 ^ f.fracBits + c + up := fun up => by omega
  rw [hroot]
  simp only [hencode]
  refine ⟨hround, ?_, ?_⟩
  · rw [decide_eq_true_iff]
    exact no_exact_root hy hrad hrem h0 h1 (by omega)
  · split <;> omega

/-- The root of a positive finite number that DAZ leaves: rounded as RC says, P exactly when it is not a value of the
format, I never, D exactly for a denormal (41_sqrt.md R123, R124). -/
theorem FpFormat.sqrtBits_correctly_rounded (hf : f.Wide) {v : BitVec f.width} (rc : BitVec 2) (daz negD : Bool)
    (hpos : 0 < v.toNat) (hfin : v.toNat < f.expMax * 2 ^ f.fracBits) (hdaz : daz = true → 2 ^ f.fracBits ≤ v.toNat) :
    f.isRoundedRoot rc (f.value v.toNat) (f.sqrtBits v rc daz negD).1.toNat ∧
      ((f.sqrtBits v rc daz negD).2.p = true ↔ ∀ r : BitVec f.width, r.toNat < f.expMax * 2 ^ f.fracBits →
        f.value r.toNat ^ 2 ≠ f.value v.toNat) ∧
      (f.sqrtBits v rc daz negD).2.i = false ∧
      ((f.sqrtBits v rc daz negD).2.d = true ↔ v.toNat < 2 ^ f.fracBits) := by
  have hsign : v.toNat < f.signBit := hfin.trans f.infinity_lt
  have hden := denormal_iff_lt hpos hsign
  have hx : f.afterDaz v.toNat daz = v.toNat :=
    afterDaz_of_not_denormal fun h => Bool.eq_false_iff.2 (mt hden.1 (Nat.not_lt.2 (hdaz h)))
  obtain ⟨hvalue, hm, hm', hlo, hhi⟩ := unpack_spec hf hpos hfin
  obtain ⟨hround, hexact, hlt⟩ := sqrtOf_correctly_rounded hf
    (e := (f.unpack v.toNat).2 - f.bias - f.fracBits) rc hm hm' (by omega) (by omega)
  have hbits : ∀ n, n < f.expMax * 2 ^ f.fracBits → (BitVec.ofNat f.width n).toNat = n := fun n hn =>
    toNat_ofNat_of_lt (hn.trans (f.infinity_lt.trans f.signBit_lt))
  rw [sqrtBits, sqrt_of_positive hx (exp_lt_of_finite hfin).ne (frac_ne_zero_of_pos hpos hsign)
    (decide_eq_false (Nat.not_le.2 hsign)), hbits _ hlt, hvalue]
  refine ⟨hround, hexact.trans ⟨fun h r hr => h r.toNat hr, fun h r hr => ?_⟩, rfl, hden⟩
  have hr' := h (BitVec.ofNat _ r)
  rw [hbits r hr] at hr'
  exact hr' hr

end

/-- Settles O32: the theorem above for both formats. -/
theorem rootsAreCorrectlyRounded : Obligations.RootsAreCorrectlyRounded := by
  constructor
  · intro v rc daz hpos hfin hdaz
    rw [sqrt64_eq_sqrtBits]
    exact FpFormat.sqrtBits_correctly_rounded binary64_wide rc daz _ hpos hfin hdaz
  · intro v rc daz hpos hfin hdaz
    rw [sqrt32_eq_sqrtBits]
    exact FpFormat.sqrtBits_correctly_rounded binary32_wide rc daz _ hpos hfin hdaz

end Sys2Proof.Machine
end

section
/-! PROOFS. STC, STD and STI: what they set, the table of STI, and the boundaries after an STI. -/

namespace Sys2Proof.Machine

/-! ## One bit of EFLAGS set (10_state.md R24) -/

/-- The bit that is set is 1. -/
theorem setFlag_getLsbD_self {b : Nat} (hb : b < 32) (s : State) : (setFlag b s).eflags.getLsbD b = true := by
  simp [setFlag, hb]

/-- Every other bit is as before. -/
theorem setFlag_getLsbD_of_ne {b k : Nat} (hk : k ≠ b) (s : State) :
    (setFlag b s).eflags.getLsbD k = s.eflags.getLsbD k := by
  by_contra h
  exact hk (setFlag_changes h).1

/-- An instruction that sets one bit of EFLAGS and retires has changed no other bit, no register and no byte, whatever it
leaves for the next boundary. -/
theorem setsFlag_retire_setFlag {b : Nat} (hb : b < 32) (len : Nat) (s : State) (shadow after : Bool) :
    setsFlag b s { retire len (setFlag b s) with stiShadow := shadow, afterSti := after } :=
  ⟨setFlag_getLsbD_self hb s, fun _ hk => setFlag_getLsbD_of_ne hk s, fun _ => rfl, fun _ => rfl, fun _ _ => rfl, rfl⟩

/-! ## What every completed instruction keeps -/

/-- No instruction takes a pending event: the boundary does. -/
theorem Effect.inputs_eq {i : Instr} {s t : State} (h : Effect i s t) : t.inputs = s.inputs := by
  cases h with
  | toGpr | toMem | string | root | setsBit => rfl

/-- An instruction that answers a state without the STI delay has completed as every instruction does. -/
theorem completes_of_exec {i : Instr} {s t : State} (h : exec i s = .next t) (hshadow : t.stiShadow = false) :
    completes i s t :=
  ⟨(exec_effect h).pc_eq, hshadow, (exec_effect h).sameConstants, (exec_effect h).inputs_eq⟩

/-- No instruction clears IF (10_state.md R24). -/
theorem Effect.flagIF_of_flagIF {i : Instr} {s t : State} (h : Effect i s t) (hs : flagIF s = true) :
    flagIF t = true := by
  by_contra hne
  exact hne (h.eflags_changes (k := 9) fun heq => hne (heq.trans hs)).1

/-! ## STC and STD -/

/-- Settles O10: STC sets bit 0 and retires. -/
theorem stcSetsCarryOnly : Obligations.StcSetsCarryOnly := by
  intro p s hl
  have h : exec (.stc p) s = .next (retire (instrLen (.stc p)) (setCF s)) :=
    ite_raise_eq_next.2 ⟨by simp [hl], rfl⟩
  exact ⟨_, h, setsFlag_retire_setFlag (by decide) _ s false false, completes_of_exec h rfl⟩

/-- Settles O11: STD sets bit 10 and retires. -/
theorem stdSetsDirectionOnly : Obligations.StdSetsDirectionOnly := by
  intro p s hl
  have h : exec (.std p) s = .next (retire (instrLen (.std p)) (setDF s)) :=
    ite_raise_eq_next.2 ⟨by simp [hl], rfl⟩
  exact ⟨_, h, setsFlag_retire_setFlag (by decide) _ s false false, completes_of_exec h rfl⟩

/-! ## The table of STI (42_flag_set.md R150), by PE and VM -/

/-- In real-address mode STI sets IF. -/
theorem stiActionOf_real {s : State} (hpe : cr0PE s = false) : stiActionOf s = .setIF := by
  simp [stiActionOf, stiAction, hpe]

/-- Outside virtual-8086 mode CPL against IOPL decides first, and only CPL 3 may set VIF. -/
theorem stiActionOf_protected {s : State} (hpe : cr0PE s = true) (hvm : flagVM s = false) :
    stiActionOf s =
      if currentCpl s ≤ flagIOPL s then .setIF
      else if currentCpl s = 3 ∧ cr4PVI s = true ∧ flagVIP s = false then .setVIF
      else .fault := by
  simp [stiActionOf, stiAction, hpe, hvm, and_assoc]

/-- In virtual-8086 mode IOPL 3 decides first. -/
theorem stiActionOf_virtual8086 {s : State} (hpe : cr0PE s = true) (hvm : flagVM s = true) :
    stiActionOf s =
      if flagIOPL s = 3 then .setIF
      else if cr4VME s = true ∧ flagVIP s = false then .setVIF
      else .fault := by
  simp [stiActionOf, stiAction, hpe, hvm]

/-- A field of two bits that is not 3 is below 3. -/
theorem not_three_le {x : BitVec 2} (h : x ≠ 3) : ¬ 3 ≤ x := by
  bv_omega

/-- STI without LOCK in a row of the table that faults (42_flag_set.md R147). -/
theorem exec_sti_of_fault {p : Pfx} {s : State} (hl : p.lock = false) (h : stiActionOf s = .fault) :
    exec (.sti p) s = raise s .gp 0 := by
  rw [exec, execSti, hl, h]
  rfl

/-- With CR0.PE = 1 the mode is not real-address mode (10_state.md R37). -/
theorem mode_ne_real_of_cr0PE {s : State} (hpe : cr0PE s = true) : mode s ≠ .real := by
  simp only [mode, hpe, Bool.not_true, Bool.false_eq_true, ↓reduceIte]
  split_ifs <;> nofun

/-- Settles O12: in these rows the action is to set IF. -/
theorem stiSetsInterruptFlag : Obligations.StiSetsInterruptFlag := by
  intro p s hl hrow
  have hact : stiActionOf s = .setIF := by
    obtain hpe | ⟨hpe, hvm, hcpl⟩ | ⟨hpe, hvm, hiopl⟩ := hrow
    · exact stiActionOf_real hpe
    · rw [stiActionOf_protected hpe hvm, if_pos hcpl]
    · rw [stiActionOf_virtual8086 hpe hvm, if_pos hiopl]
  have h : exec (.sti p) s = .next _ := execSti_eq_next.2 ⟨hl, .inl ⟨hact, rfl⟩⟩
  have he := exec_effect h
  exact ⟨_, h, setsFlag_retire_setFlag (by decide) _ s _ true, he.pc_eq, he.sameConstants, he.inputs_eq, rfl⟩

/-- Settles O13: in these rows the action is to set VIF, which starts no delay. -/
theorem stiSetsVirtualInterruptFlag : Obligations.StiSetsVirtualInterruptFlag := by
  intro p s hl hpe hiopl hvip hrow
  have hact : stiActionOf s = .setVIF := by
    obtain ⟨hvm, hcpl, hpvi⟩ | ⟨hvm, hvme⟩ := hrow
    · rw [stiActionOf_protected hpe hvm, hcpl, if_neg (not_three_le hiopl), if_pos ⟨rfl, hpvi, hvip⟩]
    · rw [stiActionOf_virtual8086 hpe hvm, if_neg hiopl, if_pos ⟨hvme, hvip⟩]
  have h : exec (.sti p) s = .next _ := execSti_eq_next.2 ⟨hl, .inr ⟨hact, rfl⟩⟩
  exact ⟨_, h, setsFlag_retire_setFlag (by decide) _ s false true, completes_of_exec h rfl⟩

/-- Settles O14: in these rows the action is the fault, whose error code is present as PE = 1. -/
theorem stiWithoutPrivilegeFaults : Obligations.StiWithoutPrivilegeFaults := by
  intro p s hl hpe hrow
  have hact : stiActionOf s = .fault := by
    obtain ⟨hvm, hcpl, hno⟩ | ⟨hvm, hiopl, hno⟩ := hrow
    · rw [stiActionOf_protected hpe hvm, if_neg (BitVec.not_le.2 hcpl), if_neg]
      rintro ⟨h3, hpvi, hvip⟩
      simp [h3, hpvi, hvip] at hno
    · rw [stiActionOf_virtual8086 hpe hvm, if_neg hiopl, if_neg]
      rintro ⟨hvme, hvip⟩
      simp [hvme, hvip] at hno
  refine ⟨_, ?_, rfl⟩
  rw [exec_sti_of_fault hl hact, raise_of_hasCode rfl, if_neg (mode_ne_real_of_cr0PE hpe)]

/-! ## What STI leaves for the next boundary (42_flag_set.md R151 to R153) -/

/-- An STI leaves `sti_shadow` set exactly when it changed IF from 0 to 1. -/
theorem exec_sti_stiShadow {p : Pfx} {s t : State} (h : exec (.sti p) s = .next t) :
    t.stiShadow = (!flagIF s && flagIF t) := by
  obtain ⟨-, ⟨-, rfl⟩ | ⟨-, rfl⟩⟩ := execSti_eq_next.1 h
  · have hset : flagIF (setIF s) = true := setFlag_getLsbD_self (by decide) s
    exact ((congrArg _ hset).trans (Bool.and_true _)).symm
  · have hkept : flagIF (setVIF s) = flagIF s := setFlag_getLsbD_of_ne (by decide) s
    exact ((congrArg _ hkept).trans (Bool.not_and_self _)).symm

/-- Every STI leaves `afterSti` set. -/
theorem exec_sti_afterSti {p : Pfx} {s t : State} (h : exec (.sti p) s = .next t) : t.afterSti = true := by
  obtain ⟨-, ⟨-, rfl⟩ | ⟨-, rfl⟩⟩ := execSti_eq_next.1 h <;> rfl

/-- Every other instruction that completes ends in `retire`. -/
theorem exec_retires_or_sti {i : Instr} {s t : State} (h : exec i s = .next t) :
    (∃ u, t = retire (instrLen i) u) ∨ ∃ p, i = .sti p := by
  have he := exec_effect h
  cases he with
  | setsBit k hk =>
    obtain ⟨-, p, rfl⟩ | ⟨-, p, rfl⟩ | ⟨-, hsti⟩ := hk
    · exact .inl ⟨_, (Host.Outcome.next.inj (ite_raise_eq_next.1 h).2).symm⟩
    · exact .inl ⟨_, (Host.Outcome.next.inj (ite_raise_eq_next.1 h).2).symm⟩
    · exact .inr hsti
  | toGpr | toMem | string | root => exact .inl ⟨_, rfl⟩

/-- Settles O16: `retire` clears both bits, so that a bit left set is an STI's. -/
theorem onlyStiLeavesShadow : Obligations.OnlyStiLeavesShadow := by
  intro i s t h
  obtain ⟨u, rfl⟩ | ⟨p, rfl⟩ := exec_retires_or_sti h
  · refine ⟨nofun, nofun, ?_⟩
    rintro ⟨p, rfl⟩
    exact exec_sti_afterSti h
  · rw [exec_sti_stiShadow h]
    refine ⟨fun hshadow => ⟨⟨p, rfl⟩, ?_⟩, fun _ => ⟨p, rfl⟩, fun _ => exec_sti_afterSti h⟩
    simpa using hshadow

/-! ## Events at a boundary (60_exceptions.md R196, R197) -/

/-- An external interrupt is recognised when it is pending, IF = 1 and no delay stands. -/
theorem external_mem_recognised {s : State} :
    .external ∈ recognised s ↔ (pendingNow s).ext = true ∧ flagIF s = true ∧ s.stiShadow = false := by
  simp [recognised, extRecognised, and_assoc]

/-- The event taken is one of those recognised. -/
theorem mem_recognised_of_takenEvent {s : State} {k : IntKind} (h : takenEvent s = some k) : k ∈ recognised s := by
  unfold takenEvent at h
  split at h
  case h_1 => cases h
  case h_2 j hj =>
    obtain rfl := Option.some.inj h
    simp [hj]
  case h_3 => exact List.mem_of_getElem? h

/-- Where an event is recognised, one is taken, whatever the choice among several is. -/
theorem takenEvent_ne_none {s : State} {k : IntKind} (h : k ∈ recognised s) : takenEvent s ≠ none := by
  unfold takenEvent
  split
  case h_1 hnil => simp [hnil] at h
  case h_2 => exact Option.some_ne_none _
  case h_3 ks _ _ =>
    have hpos : 0 < (recognised s).length := List.length_pos_of_mem h
    simpa using Nat.mod_lt _ hpos

/-- Settles O15: the delay stands at the boundary after the STI; the instruction run there finds IF = 1, so that it
neither clears IF nor starts a delay of its own. -/
theorem stiDelaysOneInstruction : Obligations.StiDelaysOneInstruction := by
  intro p s t u hsti hs ht
  have hdelay : t.stiShadow = true := by rw [exec_sti_stiShadow hsti, hs, ht]; rfl
  refine ⟨fun htaken => ?delayed, fun hstep => ?after⟩
  case delayed =>
    obtain ⟨-, -, hfree⟩ := external_mem_recognised.1 (mem_recognised_of_takenEvent htaken)
    exact absurd (hdelay.symm.trans hfree) (by decide)
  case after =>
    obtain ⟨-, -, -, i, -, hexec⟩ := step_eq_next.1 hstep
    have hIF : flagIF u = true := (exec_effect hexec).flagIF_of_flagIF ht
    have hover : u.stiShadow = false := by
      by_contra hshadow
      obtain ⟨-, hclear, -⟩ := (onlyStiLeavesShadow i _ u hexec).1 (by simpa using hshadow)
      exact absurd (ht.symm.trans hclear) (by decide)
    exact ⟨hIF, hover, fun hext => takenEvent_ne_none (external_mem_recognised.2 ⟨hext, hIF, hover⟩)⟩

end Sys2Proof.Machine
end

section
/-! PROOFS. STMXCSR and VSTMXCSR (43_stmxcsr.md): the four bytes of MXCSR, and the store that puts them down. -/

namespace Sys2Proof.Machine

/-! ## The bytes stored (43_stmxcsr.md R155) -/

/-- A byte of what is stored is that byte of MXCSR under that byte of the mask. -/
theorem storedMxcsr_extractLsb' (s : State) (k : Nat) :
    (storedMxcsr s).extractLsb' k 8 = s.mxcsr.extractLsb' k 8 &&& (0x0000FFFF#32).extractLsb' k 8 :=
  BitVec.extractLsb'_and

/-- Where the mask has a byte of ones, MXCSR is stored as it is. -/
theorem storedMxcsr_byte_of_ones {k : Nat} (hmask : (0x0000FFFF#32).extractLsb' k 8 = BitVec.allOnes 8) (s : State) :
    (storedMxcsr s).extractLsb' k 8 = s.mxcsr.extractLsb' k 8 := by
  rw [storedMxcsr_extractLsb', hmask, BitVec.and_allOnes]

/-- Where it has a byte of zeros, a zero is stored whatever MXCSR holds: the reserved bits 31:16. -/
theorem storedMxcsr_byte_of_zeros {k : Nat} (hmask : (0x0000FFFF#32).extractLsb' k 8 = 0#8) (s : State) :
    (storedMxcsr s).extractLsb' k 8 = 0 := by
  rw [storedMxcsr_extractLsb', hmask]
  exact BitVec.and_zero

/-- The four bytes stored, MXCSR[7:0] first. -/
theorem leBytes_storedMxcsr (s : State) :
    leBytes 4 (storedMxcsr s) = [s.mxcsr.extractLsb' 0 8, s.mxcsr.extractLsb' 8 8, 0, 0] :=
  calc leBytes 4 (storedMxcsr s)
    _ = [(storedMxcsr s).extractLsb' 0 8, (storedMxcsr s).extractLsb' 8 8, (storedMxcsr s).extractLsb' 16 8,
        (storedMxcsr s).extractLsb' 24 8] := rfl
    _ = [s.mxcsr.extractLsb' 0 8, s.mxcsr.extractLsb' 8 8, 0, 0] := by
      rw [storedMxcsr_byte_of_ones (k := 0) (by decide), storedMxcsr_byte_of_ones (k := 8) (by decide),
        storedMxcsr_byte_of_zeros (k := 16) (by decide), storedMxcsr_byte_of_zeros (k := 24) (by decide)]

/-! ## The store -/

/-- At an operand that can be accessed the store of both forms completes and writes those bytes only. -/
theorem mxcsrToMem_writesBytes (i : Instr) {s : State} {e : AddrBits} {m : MemForm} (hwf : Memory.wf s.mem = true)
    (hacc : accessOk s (operandSeg s e m) (effAddr s e (instrLen i) m) 4 .write .mxcsrStore = true) :
    ∃ t, mxcsrToMem (instrLen i) e m s = .next t ∧
      writesBytes i (operandPhys s (operandSeg s e m) (effAddr s e (instrLen i) m) 4)
        [s.mxcsr.extractLsb' 0 8, s.mxcsr.extractLsb' 8 8, 0, 0] s t := by
  refine ⟨_, mxcsrToMem_eq_next.2 ⟨hacc, rfl⟩, ?_⟩
  rw [leBytes_storedMxcsr]
  exact writesBytes_retire_setMem i hwf (operandPhys_length ..)

/-- Settles O24: without LOCK and with SSE usable (R158) STMXCSR is that store. -/
theorem stmxcsrStores : Obligations.StmxcsrStores := by
  intro p m s hwf hlock hem hfxsr hsse hts hacc
  obtain ⟨t, hstore, hbytes⟩ := mxcsrToMem_writesBytes (.stmxcsr p m) hwf hacc
  have hav : legacyAvailable s p.lock s.features.hasSse = true := by
    simp [legacyAvailable, hlock, hem, hfxsr, hsse, hts]
  exact ⟨t, execStmxcsr_eq_next.2 ⟨hav, hstore⟩, hbytes⟩

/-- Settles O25: with AVX usable, VEX.L = 0 and vvvv = 1111b (R158) VSTMXCSR is that store. -/
theorem vstmxcsrStores : Obligations.VstmxcsrStores := by
  intro v m s hwf hl hvvvv hmode havx hxsave hxcr0 hts hacc
  obtain ⟨t, hstore, hbytes⟩ := mxcsrToMem_writesBytes (.vstmxcsr v m) hwf hacc
  have hav : vexAvailable s (v.l || v.vvvv != 0) = true := by
    simp [vexAvailable, hl, hvvvv, hmode, havx, hxsave, hxcr0, hts]
  exact ⟨t, execVstmxcsr_eq_next.2 ⟨hav, hstore⟩, hbytes⟩

end Sys2Proof.Machine
end

section
/-! PROOFS. STOS (44_stos.md): the bytes of the accumulator that it stores, and the step of its index at each address
size. -/

namespace Sys2Proof.Machine

/-! ## Low bits -/

/-- The low bits of a difference are the difference of the low bits. -/
theorem extractLsb'_zero_sub {w b : Nat} (hb : b ≤ w) (x y : BitVec w) :
    (x - y).extractLsb' 0 b = x.extractLsb' 0 b - y.extractLsb' 0 b := by
  simp only [← BitVec.setWidth_eq_extractLsb' hb, BitVec.sub_eq_add_neg, BitVec.setWidth_add _ _ hb,
    BitVec.setWidth_neg_of_le hb]

/-- The low bits of a number are the number at their width. -/
theorem extractLsb'_zero_ofNat {w b : Nat} (hb : b ≤ w) (n : Nat) :
    (BitVec.ofNat w n).extractLsb' 0 b = BitVec.ofNat b n := by
  rw [← BitVec.setWidth_eq_extractLsb' hb, BitVec.setWidth_ofNat_of_le hb]

/-! ## The index (44_stos.md R163, R165) -/

/-- The end of an instruction leaves the general registers. -/
@[simp] theorem retire_readX (len : Nat) (s : State) (j : BitVec 4) : readX (retire len s) j = readX s j := rfl

/-- Cutting to the address size keeps its bits. -/
theorem truncA_low (a : AddrSize) (v : BitVec 64) :
    (truncA a v).extractLsb' 0 (addrBitCount a) = v.extractLsb' 0 (addrBitCount a) := by
  refine BitVec.eq_of_toNat_eq ?_
  simp [BitVec.extractLsb'_toNat, truncA_toNat]

/-- At the address size the next index is the register stepped by `n`, as DF says and with its wrap. -/
theorem nextIndex_low (s : State) (a : AddrSize) (n : Nat) :
    (nextIndex s a n).extractLsb' 0 (addrBitCount a) =
      if flagDF s then (readX s 7).extractLsb' 0 (addrBitCount a) - BitVec.ofNat (addrBitCount a) n
      else (readX s 7).extractLsb' 0 (addrBitCount a) + BitVec.ofNat (addrBitCount a) n := by
  have ha := addrBitCount_le a
  rw [nextIndex, truncA_low]
  split
  · rw [extractLsb'_zero_sub ha, addrReg, truncA_low, extractLsb'_zero_ofNat ha]
  · rw [BitVec.extractLsb'_add ha, addrReg, truncA_low, extractLsb'_zero_ofNat ha]

/-- A write of the index register takes the bits of the address size from the value written. -/
theorem mergeGpr_indexSize_low (m64 : Bool) (a : AddrSize) (old v : BitVec 64) :
    (mergeGpr m64 (indexSize a) old v).extractLsb' 0 (addrBitCount a) = v.extractLsb' 0 (addrBitCount a) := by
  cases a with
  | a16 => exact mergeGpr_low16 m64 .o16 old v
  | a32 =>
    cases m64 with
    | true =>
      rw [indexSize, mergeGpr_o32_in64]
      exact (BitVec.extractLsb'_setWidth_of_le (by decide)).trans BitVec.extractLsb'_eq_self
    | false => exact BitVec.extractLsb'_append_eq_right.trans (BitVec.setWidth_eq_extractLsb' (by decide))
  | a64 => rfl

/-- A write of 32 bits clears bits 63:32 in 64-bit mode and keeps them elsewhere. -/
theorem mergeGpr_o32_upper_by_mode (m64 : Bool) (old v : BitVec 64) :
    (mergeGpr m64 .o32 old v).extractLsb' 32 32 = if m64 then 0 else old.extractLsb' 32 32 := by
  cases m64 with
  | true =>
    rw [mergeGpr_o32_in64, if_pos rfl]
    refine BitVec.eq_of_getLsbD_eq fun j hj => ?_
    simp [hj]
  | false => exact mergeGpr_o32_upper old v

/-- The index register after STOS, at the address size. -/
theorem steppedIndex_low (s : State) (a : AddrSize) (n : Nat) :
    (mergeGpr (in64 s) (indexSize a) (readX s 7) (nextIndex s a n)).extractLsb' 0 (addrBitCount a) =
      if flagDF s then (readX s 7).extractLsb' 0 (addrBitCount a) - BitVec.ofNat (addrBitCount a) n
      else (readX s 7).extractLsb' 0 (addrBitCount a) + BitVec.ofNat (addrBitCount a) n :=
  (mergeGpr_indexSize_low ..).trans (nextIndex_low s a n)

/-! ## The obligation -/

/-- The eight forms have one meaning, at their number of bytes (44_stos.md R166 to R169). -/
theorem exec_stos {p : Pfx} {i : Instr} {n : Nat}
    (hi : (i, n) ∈ [(Instr.stosM8 p, 1), (.stosM16 p, 2), (.stosM32 p, 4), (.stosM64 p, 8),
      (.stosb p, 1), (.stosw p, 2), (.stosd p, 4), (.stosq p, 8)]) (s : State) :
    exec i s = stos n (instrLen i) p s := by
  simp only [List.mem_cons, List.not_mem_nil, or_false, Prod.mk.injEq] at hi
  obtain ⟨rfl, rfl⟩ | ⟨rfl, rfl⟩ | ⟨rfl, rfl⟩ | ⟨rfl, rfl⟩ | ⟨rfl, rfl⟩ | ⟨rfl, rfl⟩ | ⟨rfl, rfl⟩ | ⟨rfl, rfl⟩ :=
    hi <;> rfl

/-- Settles O26: one store of the accumulator's bytes, then one write of the index register at the address size; what
either leaves unchanged is the frame of the store and of the write. -/
theorem stosStoresAndSteps : Obligations.StosStoresAndSteps := by
  intro p i n s hi hwf hl hacc
  have hexec := (exec_stos hi s).trans (stos_eq_next.2 ⟨hl, hacc, rfl⟩)
  generalize addrSize (codeCtx s) p.adsz = a at hexec ⊢
  obtain ⟨hholds, houtside, -⟩ := writesBytes_retire_setMem i (bytes := leBytes n (readX s 0)) hwf
    ((operandPhys_length s .es (addrReg s a 7) n).trans (leBytes_length ..).symm)
  obtain ⟨hothers, hymms, -, heflags, hmxcsr, -⟩ := writesGpr_retire_writeGpr i
    (setMem s (memWriteAll s.mem ((operandPhys s .es (addrReg s a 7) n).zip (leBytes n (readX s 0))))) s.freeIdx 7
    (indexSize a) (nextIndex s a n)
  refine ⟨_, hexec, hholds, houtside, ?index, hothers, hymms, heflags, hmxcsr, completes_of_exec hexec rfl⟩
  case index =>
    rw [retire_readX, readX_writeGpr_self]
    cases a with
    | a16 => exact ⟨steppedIndex_low s .a16 n, mergeGpr_o16_upper ..⟩
    | a32 => exact ⟨steppedIndex_low s .a32 n, mergeGpr_o32_upper_by_mode ..⟩
    | a64 => rfl -- nothing is cut at 64 bits

end Sys2Proof.Machine
end

section
/-! PROOFS. STR (45_str.md): the selector of TR in a register and in memory, and #UD in real-address and
virtual-8086 mode. -/

namespace Sys2Proof.Machine

/-! ## The selector (45_str.md R174) -/

/-- The low bits of a value widened to a register are the value at their width. -/
theorem extractLsb'_zero_setWidth {w b n : Nat} (hb : b ≤ n) (v : BitVec w) :
    (v.setWidth n).extractLsb' 0 b = v.setWidth b := by
  rw [← BitVec.setWidth_eq_extractLsb' hb, BitVec.setWidth_setWidth_of_le v hb]

/-- A write of 32 bits puts them into the low half, in every mode (10_state.md R19). -/
theorem mergeGpr_o32_low (m64 : Bool) (old v : BitVec 64) :
    (mergeGpr m64 .o32 old v).extractLsb' 0 32 = v.extractLsb' 0 32 := mergeGpr_indexSize_low m64 .a32 old v

/-- The two bytes of a selector, the low one first (20_memory.md R49). -/
theorem leBytes_two (v : BitVec 16) : leBytes 2 v = [v.extractLsb' 0 8, v.extractLsb' 8 8] := rfl

/-! ## What STR answers -/

/-- In real-address and virtual-8086 mode #UD, with or without LOCK (45_str.md R178). -/
theorem exec_str_of_realOrV86 {s : State} (hr : realOrV86 s = true) (p : Pfx) (rm : RM) :
    exec (.str p rm) s = .fault (.exception .ud none (faulted s)) := by
  rw [exec]
  unfold execStr
  rw [if_pos hr, ite_self, raise_ud]

section
variable {p : Pfx} {s : State}

/-- Elsewhere, to a register, a write of the selector at the operand size (45_str.md R176). -/
theorem exec_str_reg (hl : p.lock = false) (hr : realOrV86 s = false) (n : BitVec 3) :
    exec (.str p (.reg n)) s =
      .next (retire (instrLen (.str p (.reg n)))
        (writeGpr s (regNum s p.b n) (operandSize (codeCtx s) p.opsz p.w) (s.tr.sel.setWidth 64))) :=
  ite_raise_eq_next.2 ⟨by simp [hl], ite_raise_eq_next.2 ⟨by simp [hr], rfl⟩⟩

/-- To memory, the store of its two bytes where the operand can be accessed (45_str.md R177, R180). -/
theorem exec_str_mem (hl : p.lock = false) (hr : realOrV86 s = false) {m : MemForm}
    (hacc : accessOk s (operandSeg s (addrBitsOfPfx p) m)
      (effAddr s (addrBitsOfPfx p) (instrLen (.str p (.mem m))) m) 2 .write .strStore = true) :
    exec (.str p (.mem m)) s =
      .next (retire (instrLen (.str p (.mem m))) (setMem s (memWriteAll s.mem
        ((operandPhys s (operandSeg s (addrBitsOfPfx p) m)
          (effAddr s (addrBitsOfPfx p) (instrLen (.str p (.mem m))) m) 2).zip (leBytes 2 s.tr.sel))))) := by
  refine ite_raise_eq_next.2 ⟨by simp [hl], ite_raise_eq_next.2 ⟨by simp [hr], ?_⟩⟩
  exact andThen_eq_next.2 ⟨_, storeMem_eq_next.2 ⟨hacc, rfl⟩, rfl⟩

end

/-! ## The obligations -/

/-- Settles O23: the check of the mode stands before any look at the operand. -/
theorem strOutsideProtectedMode : Obligations.StrOutsideProtectedMode := fun p rm _ hmode =>
  exec_str_of_realOrV86 (realOrV86_eq_true.2 hmode) p rm

/-- Settles O21: one write of the register, whose value is read off the merge at each operand size. -/
theorem strToRegister : Obligations.StrToRegister := by
  intro p n s hl hr
  refine ⟨_, exec_str_reg hl hr n, ?value, writesGpr_retire_writeGpr _ s s.freeIdx _ _ _⟩
  rw [retire_readX, readX_writeGpr_self]
  cases operandSize (codeCtx s) p.opsz p.w with
  | o16 =>
    have hsel : (s.tr.sel.setWidth 64).extractLsb' 0 16 = s.tr.sel :=
      (extractLsb'_zero_setWidth (by decide) _).trans (BitVec.setWidth_eq _)
    exact ⟨(mergeGpr_low16 ..).trans hsel, mergeGpr_o16_upper ..⟩
  | o32 =>
    exact ⟨(mergeGpr_o32_low ..).trans (extractLsb'_zero_setWidth (by decide) _), mergeGpr_o32_upper_by_mode ..⟩
  | o64 => rfl -- nothing of the old value is kept

/-- Settles O22: the store of the two bytes, with the frame that every store has. -/
theorem strToMemory : Obligations.StrToMemory := by
  intro p m s hwf hl hr hacc
  refine ⟨_, exec_str_mem hl hr hacc, ?_⟩
  rw [leBytes_two]
  exact writesBytes_retire_setMem _ hwf (operandPhys_length ..)

end Sys2Proof.Machine
end

section
/-! PROOFS. The phases of an instruction (41_sqrt.md R140, said of all 27 rows): its checks, its memory access, its
numeric step. Where one of them stops, the instruction stops with it; where all pass, it completes. -/

namespace Sys2Proof.Machine

/-! ## The checks -/

/-- The exceptions of the checks made before an operand is read (30_encoding.md R75, 41_sqrt.md R127,
42_flag_set.md R147, 43_stmxcsr.md R158, 45_str.md R178). `exec_of_unavailable` ties it to the model. -/
def checkExcs (i : Instr) : List Exc :=
  match i with
  | .sqrtpd _ _ _ | .vsqrtpdXmm _ _ _ | .vsqrtpdYmm _ _ _ | .sqrtps _ _ _ | .vsqrtpsXmm _ _ _ | .vsqrtpsYmm _ _ _
  | .sqrtsd _ _ _ | .vsqrtsd _ _ _ | .sqrtss _ _ _ | .vsqrtss _ _ _ | .stmxcsr _ _ | .vstmxcsr _ _ => [.ud, .nm]
  | .sti _ => [.ud, .gp]
  | _ => [.ud]

/-- #UD is among the exceptions of every instruction's checks. -/
theorem ud_mem_checkExcs (i : Instr) : .ud ∈ checkExcs i := by cases i <;> exact List.mem_cons_self

/-- A meaning behind the legacy checks, when they fail, is #UD or #NM. -/
theorem checked_of_not_legacyAvailable {s : State} {lock has : Bool} (h : legacyAvailable s lock has = false)
    (rest : Host.Outcome State Fault Refusal) :
    ∃ e ∈ [Exc.ud, .nm], checked (legacySseCheck s lock has) s rest = raise s e 0 := by
  cases hc : legacySseCheck s lock has with
  | none =>
    rw [(legacySseCheck_eq_none_iff s lock has).1 hc] at h
    cases h
  | some e => exact ⟨e, by simpa using legacySseCheck_eq_some hc, rfl⟩

/-- A meaning behind the VEX checks, when they fail, is #UD or #NM. -/
theorem checked_of_not_vexAvailable {s : State} {reserved : Bool} (h : vexAvailable s reserved = false)
    (rest : Host.Outcome State Fault Refusal) :
    ∃ e ∈ [Exc.ud, .nm], checked (vexCheck s reserved) s rest = raise s e 0 := by
  cases hc : vexCheck s reserved with
  | none =>
    rw [(vexCheck_eq_none_iff s reserved).1 hc] at h
    cases h
  | some e => exact ⟨e, by simpa using vexCheck_eq_some hc, rfl⟩

/-- An instruction that is not available raises an exception of its checks. -/
theorem exec_of_unavailable {i : Instr} {s : State} (h : available i s = false) :
    ∃ e ∈ checkExcs i, exec i s = raise s e 0 := by
  by_cases hl : locked i = true
  · exact ⟨.ud, ud_mem_checkExcs i, (lockRaisesUd i s hl).trans (raise_ud s).symm⟩
  rw [Bool.not_eq_true] at hl
  cases i with
  | sqrtpd | sqrtps | sqrtsd | sqrtss | stmxcsr => exact checked_of_not_legacyAvailable h _
  | vsqrtpdXmm | vsqrtpdYmm | vsqrtpsXmm | vsqrtpsYmm | vsqrtsd | vsqrtss | vstmxcsr =>
    exact checked_of_not_vexAvailable h _
  | sti p =>
    have hact : stiActionOf s = .fault := by
      have hl' : p.lock = false := hl
      simpa [available, hl'] using h
    exact ⟨.gp, List.mem_cons_of_mem _ List.mem_cons_self, exec_sti_of_fault hl hact⟩
  | str p rm =>
    have hmode : realOrV86 s = true := by
      have hl' : p.lock = false := hl
      simpa [available, hl'] using h
    exact ⟨.ud, List.mem_cons_self, (exec_str_of_realOrV86 hmode p rm).trans (raise_ud s).symm⟩
  | smswRm16 p | smswR32M16 p | smswR64M16 p | stc p | std p | stosM8 p | stosM16 p | stosM32 p | stosM64 p | stosb p
  | stosw p | stosd p | stosq p =>
    have hl' : p.lock = false := hl
    simp [available, hl'] at h

/-! ## The access and the numeric step -/

/-- The checks of an access, and none where there is no access: the physical addresses that it goes to. -/
def accessOutcome (s : State) : Option MemAccess → Host.Outcome (List Nat) Fault Refusal
  | none => .next []
  | some a => checkAccess s a.seg a.off a.size a.kind a.rule

/-- An access is made exactly when its operand can be accessed. -/
theorem exists_accessOutcome_eq_next {s : State} {o : Option MemAccess} :
    (∃ ps, accessOutcome s o = .next ps) ↔
      ∀ a, o = some a → accessOk s a.seg a.off a.size a.kind a.rule = true := by
  cases o with
  | none => simp [accessOutcome]
  | some a => simp [accessOutcome, checkAccess_eq_next]

/-- The outcome is that of the instruction's access, then of its numeric step, after which nothing stops it. -/
def HasPhases (i : Instr) (s : State) (o : Host.Outcome State Fault Refusal) : Prop :=
  ∃ finish : List Nat → State, o =
    andThen (accessOutcome s (memAccess i s)) fun ps =>
      andThen (numericStep s (laneFlags i s)) fun _ => .next (finish ps)

section
variable {i : Instr} {s : State}

/-- Without an access and without lanes an instruction completes. -/
theorem hasPhases_next (hacc : memAccess i s = none) (hl : laneFlags i s = []) (t : State) :
    HasPhases i s (.next t) := by
  refine ⟨fun _ => t, ?_⟩
  rw [hacc, hl]
  rfl

/-- A store is an access with nothing behind it that stops. -/
theorem hasPhases_store {g : SegName} {off : BitVec 64} {n : Nat} {bytes : List Byte} {rule : AccessRule}
    (hacc : memAccess i s = some ⟨g, off, n, .write, rule⟩) (hl : laneFlags i s = []) (hn : bytes.length = n)
    (f : State → State) : HasPhases i s (andThen (segWrite s g off bytes rule) fun t => .next (f t)) := by
  refine ⟨fun ps => f (setMem s (memWriteAll s.mem (ps.zip bytes))), ?_⟩
  rw [hacc, hl, segWrite, andThen_assoc, hn]
  rfl

/-- Reading the source of a square root is its access; where that is made, the value read is that of the source. -/
theorem readVec_eq_access {w len : Nat} {e : AddrBits} {rm : RM} {rule : AccessRule} :
    readVec w s e len rm rule =
      andThen (accessOutcome s (rmAccess s e len (w / 8) .read rule rm)) fun _ => .next (sourceValue w s e len rm) := by
  cases rm with
  | reg n => rfl
  | mem m =>
    have hread (v : BitVec w) := readVec_eq_next (s := s) (e := e) (len := len) (rm := .mem m) (rule := rule) (v := v)
    simp only [readVec, segRead, andThen_assoc, andThen_next, rmAccess, accessOutcome] at hread ⊢
    cases hc : checkAccess s (operandSeg s e m) (effAddr s e len m) (w / 8) .read rule with
    | next ps =>
      rw [hc] at hread
      obtain ⟨-, hv⟩ := (hread _).1 rfl
      rw [andThen_next, andThen_next, hv]
    | fault f => rfl
    | refused r => rfl

/-- An available square root reads its source, does its numeric step and completes (41_sqrt.md R140). -/
theorem hasPhases_of_lanes (hav : available i s = true) (hlanes : laneFlags i s ≠ []) : HasPhases i s (exec i s) := by
  obtain ⟨w, e, dst, rm, rule, f, dest, hexec, hf, hmem⟩ := exec_eq_sqrtBody hav hlanes
  refine ⟨fun _ => retire (instrLen i) (setYmm (setMxcsr s (s.mxcsr ||| allFlagBits (laneFlags i s))) dst
    (dest (f (sourceValue w s e (instrLen i) rm) (mxcsrRC s) (mxcsrDAZ s)).1)), ?_⟩
  rw [hexec, sqrtBody, readVec_eq_access, hmem, andThen_assoc]
  simp only [andThen_next, hf]
  cases hn : numericStep s (laneFlags i s) with
  | next u =>
    obtain ⟨-, rfl⟩ := numericStep_eq_next.1 hn
    rfl
  | fault r => rfl
  | refused r => rfl

/-- A meaning behind a check that passes has the phases of the rest. -/
theorem hasPhases_ite {c : Prop} [Decidable c] {e : Exc} {o : Host.Outcome State Fault Refusal} (hc : ¬ c)
    (h : HasPhases i s o) : HasPhases i s (if c then raise s e 0 else o) := by
  rwa [if_neg hc]

/-- STOS without LOCK is a store with nothing behind it that stops (44_stos.md R173). -/
theorem stos_hasPhases {n : Nat} {p : Pfx} (hacc : memAccess i s = stosAccess s p n) (hl : laneFlags i s = [])
    (hlock : (!p.lock) = true) : HasPhases i s (stos n (instrLen i) p s) :=
  hasPhases_ite (by simpa using hlock) (hasPhases_store hacc hl (leBytes_length n _) _)

end

/-- STI with a right to it has no access and no lanes, and completes (42_flag_set.md R147). -/
theorem execSti_completes {p : Pfx} {s : State} (hl : p.lock = false) (h : stiActionOf s ≠ .fault) :
    ∃ t, execSti p s = .next t := by
  cases hact : stiActionOf s with
  | setIF => exact ⟨_, execSti_eq_next.2 ⟨hl, .inl ⟨hact, rfl⟩⟩⟩
  | setVIF => exact ⟨_, execSti_eq_next.2 ⟨hl, .inr ⟨hact, rfl⟩⟩⟩
  | fault => exact absurd hact h

/-- Every available instruction makes its access, does its numeric step and completes. -/
theorem exec_hasPhases {i : Instr} {s : State} (hav : available i s = true) : HasPhases i s (exec i s) := by
  cases i with
  | smswRm16 p rm | smswR32M16 p rm | smswR64M16 p rm =>
    refine hasPhases_ite (by simpa [available] using hav) ?_
    cases rm with
    | reg n => exact hasPhases_next rfl rfl _
    | mem m => exact hasPhases_store rfl rfl (leBytes_length 2 _) _
  | str p rm =>
    obtain ⟨hl, hmode⟩ := Bool.and_eq_true_iff.1 hav
    refine hasPhases_ite (by simpa using hl) (hasPhases_ite (by simpa using hmode) ?_)
    cases rm with
    | reg n => exact hasPhases_next rfl rfl _
    | mem m => exact hasPhases_store rfl rfl (leBytes_length 2 _) _
  | sqrtpd | vsqrtpdXmm => exact hasPhases_of_lanes hav (laneFlags64_ne_nil two_ne_zero)
  | vsqrtpdYmm => exact hasPhases_of_lanes hav (laneFlags64_ne_nil four_ne_zero)
  | sqrtsd | vsqrtsd => exact hasPhases_of_lanes hav (laneFlags64_ne_nil one_ne_zero)
  | sqrtps | vsqrtpsXmm => exact hasPhases_of_lanes hav (laneFlags32_ne_nil four_ne_zero)
  | vsqrtpsYmm => exact hasPhases_of_lanes hav (laneFlags32_ne_nil (Nat.succ_ne_zero 7))
  | sqrtss | vsqrtss => exact hasPhases_of_lanes hav (laneFlags32_ne_nil one_ne_zero)
  | stc | std => exact hasPhases_ite (by simpa [available] using hav) (hasPhases_next rfl rfl _)
  | sti p =>
    obtain ⟨hl, hact⟩ := Bool.and_eq_true_iff.1 hav
    obtain ⟨t, ht⟩ := execSti_completes (by simpa using hl) (by simpa using hact)
    rw [show exec (.sti p) s = .next t from ht]
    exact hasPhases_next rfl rfl t
  | stmxcsr p m =>
    change HasPhases _ s (checked (legacySseCheck s p.lock s.features.hasSse) s (mxcsrToMem _ _ _ _))
    rw [(legacySseCheck_eq_none_iff s _ _).2 hav]
    exact hasPhases_store rfl rfl (leBytes_length 4 _) _
  | vstmxcsr v m =>
    change HasPhases _ s (checked (vexCheck s (v.l || v.vvvv != 0)) s (mxcsrToMem _ _ _ _))
    rw [(vexCheck_eq_none_iff s _).2 hav]
    exact hasPhases_store rfl rfl (leBytes_length 4 _) _
  | stosM8 | stosM16 | stosM32 | stosM64 | stosb | stosw | stosd | stosq => exact stos_hasPhases rfl rfl hav

/-! ## Completion -/

/-- The numeric step passes exactly when every condition of every lane is masked (41_sqrt.md R126). -/
theorem exists_numericStep_eq_next {s : State} {fs : List FpFlags} :
    (∃ t, numericStep s fs = .next t) ↔ fs.all (masked s) = true := by
  simp only [numericStep_eq_next, fault_eq_not_masked, Bool.not_eq_false']
  exact ⟨fun ⟨_, h, _⟩ => h, fun h => ⟨_, h, rfl⟩⟩

/-- Settles O49: an unavailable instruction raises, and an available one completes when its two other phases do. -/
theorem completionIsExact : Obligations.CompletionIsExact := by
  intro i s
  cases hav : available i s with
  | false =>
    obtain ⟨e, -, he⟩ := exec_of_unavailable hav
    simp [he]
  | true =>
    obtain ⟨finish, he⟩ := exec_hasPhases hav
    rw [← exists_accessOutcome_eq_next, ← exists_numericStep_eq_next, he]
    simp only [andThen_eq_next, true_and]
    constructor
    · rintro ⟨_, ps, hps, u, hu, -⟩
      exact ⟨⟨ps, hps⟩, u, hu⟩
    · rintro ⟨⟨ps, hps⟩, u, hu⟩
      exact ⟨_, ps, hps, u, hu, rfl⟩

end Sys2Proof.Machine
end

section
/-! PROOFS. The exceptions of an instruction (60_exceptions.md R182 to R189): which check raises which, with which error
code, and the state that each leaves. -/

namespace Sys2Proof.Machine

/-! ## Error codes (R182) -/

/-- The error code that an exception is raised with. -/
def errorCode (s : State) (e : Exc) (code : BitVec 32) : Option (BitVec 32) :=
  if excHasCode e && mode s != .real then some code else none

theorem raise_eq_errorCode {α : Type} (s : State) (e : Exc) (code : BitVec 32) :
    (raise s e code : Host.Outcome α Fault Refusal) = .fault (.exception e (errorCode s e code) (faulted s)) := rfl

/-- What R182 says of the error code of an exception. -/
def HasErrorCode (s : State) (e : Exc) (code : Option (BitVec 32)) : Prop :=
  if e ∈ [.ud, .nm, .xm] ∨ mode s = .real then code = none
  else if e = .pf then code.isSome = true else code = some 0

/-- Every exception but #PF is raised with the code 0, where it has one. -/
theorem hasErrorCode_zero {s : State} {e : Exc} (he : e ≠ .pf) : HasErrorCode s e (errorCode s e 0) := by
  by_cases hm : mode s = .real
  · simp [HasErrorCode, errorCode, hm]
  · cases e with
    | pf => exact absurd rfl he
    | _ => simp [HasErrorCode, errorCode, hm, excHasCode]

/-- #PF has an error code outside real-address mode. -/
theorem hasErrorCode_pf (s : State) (code : BitVec 32) : HasErrorCode s .pf (errorCode s .pf code) := by
  by_cases hm : mode s = .real <;> simp [HasErrorCode, errorCode, hm, excHasCode]

/-! ## Page faults (R182, 20_memory.md R61) -/

/-- The page fault of an access of this kind at a linear address. -/
def raisePageFault {α : Type} (s : State) (kind : Access) (a : BitVec 64) : Host.Outcome α Fault Refusal :=
  raise { s with cr2 := a } .pf (pageFaultCode s kind ((pageOf s a).elim false PageRange.present))

/-- `Translate` of several bytes raises for the first one that it refuses, else answers for all. -/
theorem translateAll_eq (s : State) (kind : Access) (as : List (BitVec 64)) :
    translateAll s kind as =
      (as.find? (pageFaults s kind)).elim (.next (as.map (physOf s))) (raisePageFault s kind) := by
  induction as with
  | nil => rfl
  | cons a as ih =>
    rw [translateAll, translate_eq, ih, List.find?_cons]
    cases pageFaults s kind a with
    | true => rfl
    | false =>
      rw [if_neg Bool.false_ne_true, andThen_next]
      cases as.find? (pageFaults s kind) <;> rfl

/-- The first byte of an operand that `Translate` refuses, found by its number. -/
theorem find?_operandAddrs_eq_some {s : State} {g : SegName} {off : BitVec 64} {n k : Nat} {kind : Access} (hk : k < n)
    (hfault : pageFaults s kind (byteAddr s (linearAddr s g off) k) = true)
    (hfirst : ∀ j, j < k → pageFaults s kind (byteAddr s (linearAddr s g off) j) = false) :
    (operandAddrs s g off n).find? (pageFaults s kind) = some (byteAddr s (linearAddr s g off) k) := by
  have hrange : (List.range n).find? (pageFaults s kind ∘ byteAddr s (linearAddr s g off)) = some k :=
    List.find?_range_eq_some.2 ⟨hfault, List.mem_range.2 hk, fun j hj => by simp [hfirst j hj]⟩
  rw [operandAddrs, byteAddrs, List.find?_map, hrange, Option.map_some]

/-- A page refuses an access when it is absent, or reserved to a higher privilege, or read-only (20_memory.md R61). -/
theorem pageFaults_eq_true_of_page {s : State} {kind : Access} {a : BitVec 64} {r : PageRange} (hpg : cr0PG s = true)
    (hp : pageOf s a = some r)
    (h : r.present = false ∨ (currentCpl s = 3 ∧ r.user = false) ∨
      (kind = .write ∧ r.writable = false ∧ (currentCpl s = 3 ∨ cr0WP s = true))) : pageFaults s kind a = true := by
  simpa [pageFaults, pageDenies, hpg, hp, and_assoc] using h

/-- No instruction accesses its operand as code. -/
theorem kind_of_memAccess {i : Instr} {s : State} {a : MemAccess} (hacc : memAccess i s = some a) :
    a.kind ≠ .execute := by
  cases i with
  | stc | std | sti => cases hacc
  | stmxcsr | vstmxcsr | stosM8 | stosM16 | stosM32 | stosM64 | stosb | stosw | stosd | stosq =>
    obtain rfl := Option.some.inj hacc
    nofun
  | _ =>
    obtain ⟨m, -, rfl⟩ := rmAccess_eq_some.1 hacc
    nofun

/-- The bits of a page-fault code: P, W/R, U/S, I/D in bits 0, 1, 2 and 4. -/
theorem pageFaultCode_getLsbD (s : State) (kind : Access) (present : Bool) (b : Nat) :
    (pageFaultCode s kind present).getLsbD b =
      ((b == 0 && present) || (b == 1 && kind == .write) || (b == 2 && currentCpl s == 3) ||
        (b == 4 && kind == .execute)) := by
  have bits : ∀ (x u w p : Bool) (b : Fin 32),
      ((BitVec.ofBool x ++ 0#1 ++ BitVec.ofBool u ++ BitVec.ofBool w ++ BitVec.ofBool p).setWidth 32).getLsbD b.val =
        ((b.val == 0 && p) || (b.val == 1 && w) || (b.val == 2 && u) || (b.val == 4 && x)) := by decide
  by_cases hb : b < 32
  · exact bits _ _ _ _ ⟨b, hb⟩
  · rw [BitVec.getLsbD_of_ge _ _ (by omega)]
    have h0 : b ≠ 0 := by omega
    have h1 : b ≠ 1 := by omega
    have h2 : b ≠ 2 := by omega
    have h4 : b ≠ 4 := by omega
    simp [h0, h1, h2, h4]

/-- With CR0.PE = 1 a page fault reports the address in CR2 and its cause in an error code. -/
theorem raisePageFault_of_cr0PE {α : Type} {s : State} {kind : Access} {a : BitVec 64} {r : PageRange}
    (hpe : cr0PE s = true) (hp : pageOf s a = some r) :
    (raisePageFault s kind a : Host.Outcome α Fault Refusal) =
      .fault (.exception .pf (some (pageFaultCode s kind r.present)) (faulted { s with cr2 := a })) := by
  have hmode : (mode s != .real) = true := by simpa using mode_ne_real_of_cr0PE hpe
  have hcode (c : BitVec 32) : errorCode { s with cr2 := a } .pf c = some c := if_pos hmode
  rw [raisePageFault, hp, raise_eq_errorCode, hcode, Option.elim_some]

/-- Settles O44: past the checks before it, the access raises for the first byte that `Translate` refuses. -/
theorem pageFaultReports : Obligations.PageFaultReports := by
  intro i s a k r hav hacc hseg hcan halign hpe hpg hk hfirst hpage hrefuse
  have hfind := find?_operandAddrs_eq_some hk (pageFaults_eq_true_of_page hpg hpage hrefuse) hfirst
  have hexecute : (a.kind == .execute) = false := by simpa using kind_of_memAccess hacc
  have hbits := pageFaultCode_getLsbD s a.kind r.present
  obtain ⟨rest, hexec⟩ := exec_beginsWith hav hacc
  refine ⟨pageFaultCode s a.kind r.present, faulted { s with cr2 := byteAddr s (linearAddr s a.seg a.off) k }, ?fault,
    rfl, rfl, ?present, ?write, ?user, fun b hb => ?others⟩
  case fault =>
    rw [hexec, checkAccess_of_reachable hseg hcan, halign, Option.elim_none, translateAll_eq, hfind, Option.elim_some,
      raisePageFault_of_cr0PE hpe hpage, andThen_fault, andThen_fault]
  case present => exact (hbits 0).trans (by simp)
  case write => exact (hbits 1).trans (by simp)
  case user => exact (hbits 2).trans (by simp)
  case others =>
    have h0 : b ≠ 0 := by omega
    have h1 : b ≠ 1 := by omega
    have h2 : b ≠ 2 := by omega
    exact (hbits b).trans (by simp [hexecute, h0, h1, h2])

/-! ## The exceptions of an access -/

/-- The exceptions of an access other than #PF: #SS only through SS, #AC only for 2, 4 and 8 bytes (20_memory.md R52,
R53, R58, R60). -/
def AccessExc (a : MemAccess) (e : Exc) : Prop := e = .gp ∨ (e = .ss ∧ a.seg = .ss) ∨ (e = .ac ∧ a.size ∈ [2, 4, 8])

theorem AccessExc.ne_pf {a : MemAccess} {e : Exc} (h : AccessExc a e) : e ≠ .pf := by
  obtain rfl | ⟨rfl, -⟩ | ⟨rfl, -⟩ := h <;> nofun

/-- A failure of the alignment is #GP by the 16-byte rule, else #AC. -/
theorem alignFault_eq_some {s : State} {x : BitVec 64} {n : Nat} {rule : AccessRule} {e : Exc}
    (h : alignFault s x n rule = some e) : e = .gp ∨ (e = .ac ∧ n ∈ [2, 4, 8]) := by
  unfold alignFault at h
  split at h
  · exact .inl (Option.some.inj h).symm
  · split at h
    next hac =>
      simp only [Bool.and_eq_true, Bool.or_eq_true, beq_iff_eq, or_assoc] at hac
      obtain ⟨⟨⟨⟨hn, -⟩, -⟩, -⟩, -⟩ := hac
      exact .inr ⟨(Option.some.inj h).symm, by simpa using hn⟩
    next => cases h

/-- The last checks of an access raise no exception: they refuse, or the agent is stuck (20_memory.md R62, R70). -/
theorem storeChecks_ne_exception {s left : State} {kind : Access} {ps : List Nat} {e : Exc}
    {code : Option (BitVec 32)} : storeChecks s kind ps ≠ .fault (.exception e code left) := by
  unfold storeChecks
  split
  · nofun
  · split <;> nofun

/-- An exception of an access is a page fault at one of its bytes, or of SegCheck, of a non-canonical address or of the
alignment, with the code 0. -/
theorem checkAccess_eq_exception {s left : State} {a : MemAccess} {e : Exc} {code : Option (BitVec 32)}
    (h : checkAccess s a.seg a.off a.size a.kind a.rule = .fault (.exception e code left)) :
    (AccessExc a e ∧ code = errorCode s e 0 ∧ left = faulted s) ∨
      ∃ (x : BitVec 64) (c : BitVec 32), e = .pf ∧ code = errorCode s .pf c ∧ left = faulted { s with cr2 := x } := by
  have of_raise : ∀ {x : Exc}, AccessExc a x →
      (raise s x 0 : Host.Outcome (List Nat) Fault Refusal) = .fault (.exception e code left) →
      AccessExc a e ∧ code = errorCode s e 0 ∧ left = faulted s := by
    rintro x hx hr
    obtain ⟨rfl, rfl, rfl⟩ := Fault.exception.inj (Host.Outcome.fault.inj hr)
    exact ⟨hx, rfl, rfl⟩
  cases hseg : segCheck s a.seg a.off a.size a.kind a.rule with
  | some x =>
    rw [checkAccess_of_segCheck_some hseg] at h
    exact .inl (of_raise ((segCheck_eq_some hseg).imp_right .inl) h)
  | none =>
    by_cases hcan : in64 s = true → (operandAddrs s a.seg a.off a.size).all canonical = true
    · rw [checkAccess_of_reachable hseg hcan] at h
      cases halign : alignFault s (linearAddr s a.seg a.off) a.size a.rule with
      | some x =>
        rw [halign] at h
        exact .inl (of_raise ((alignFault_eq_some halign).imp_right .inr) h)
      | none =>
        rw [halign, Option.elim_none, translateAll_eq] at h
        cases hfind : (operandAddrs s a.seg a.off a.size).find? (pageFaults s a.kind) with
        | none =>
          rw [hfind] at h
          exact absurd h storeChecks_ne_exception
        | some x =>
          rw [hfind] at h
          obtain ⟨rfl, rfl, rfl⟩ := Fault.exception.inj (Host.Outcome.fault.inj h)
          exact .inr ⟨x, _, rfl, rfl, rfl⟩
    · obtain ⟨h64, hc⟩ := Classical.not_imp.1 hcan
      rw [checkAccess_of_not_canonical hseg h64 (Bool.eq_false_iff.2 hc)] at h
      refine .inl (of_raise ?_ h)
      split
      next hss => exact .inr (.inl ⟨rfl, hss⟩)
      next => exact .inl rfl

/-! ## The exceptions of an instruction -/

/-- An exception of an instruction, with its error code and the state it leaves. `exec_raised` ties it to the model. -/
inductive Raised (i : Instr) (s : State) : Exc → Option (BitVec 32) → State → Prop
  /-- By a check made before an operand is read. -/
  | check {e : Exc} (he : e ∈ checkExcs i) : Raised i s e (errorCode s e 0) (faulted s)
  /-- By the access, before its bytes are translated. -/
  | access {a : MemAccess} {e : Exc} (hacc : memAccess i s = some a) (he : AccessExc a e) :
      Raised i s e (errorCode s e 0) (faulted s)
  /-- By `Translate` of a byte of the access. -/
  | page {a : MemAccess} (hacc : memAccess i s = some a) (x : BitVec 64) (c : BitVec 32) :
      Raised i s .pf (errorCode s .pf c) (faulted { s with cr2 := x })
  /-- By a numeric condition that is not masked (41_sqrt.md R126). -/
  | numeric {e : Exc} (hlanes : (laneFlags i s).all (masked s) = false) (he : e = .xm ∨ e = .ud) :
      Raised i s e (errorCode s e 0) (faulted (withFreeFlags s))

/-- An exception of the instruction's access. -/
theorem raised_of_accessOutcome {i : Instr} {s left : State} {e : Exc} {code : Option (BitVec 32)}
    (h : accessOutcome s (memAccess i s) = .fault (.exception e code left)) : Raised i s e code left := by
  cases hacc : memAccess i s with
  | none =>
    rw [hacc] at h
    cases h
  | some a =>
    rw [hacc] at h
    obtain ⟨he, rfl, rfl⟩ | ⟨x, c, rfl, rfl, rfl⟩ := checkAccess_eq_exception h
    · exact .access hacc he
    · exact .page hacc x c

/-- An exception of the instruction's numeric step. -/
theorem raised_of_numericStep {i : Instr} {s left : State} {e : Exc} {code : Option (BitVec 32)}
    (h : numericStep s (laneFlags i s) = .fault (.exception e code left)) : Raised i s e code left := by
  cases hlanes : (laneFlags i s).all (masked s) with
  | true =>
    obtain ⟨t, ht⟩ := exists_numericStep_eq_next.2 hlanes
    rw [ht] at h
    cases h
  | false =>
    rw [numericStep_of_unmasked hlanes] at h
    obtain ⟨rfl, rfl, rfl⟩ := Fault.exception.inj (Host.Outcome.fault.inj h)
    exact .numeric hlanes (by split <;> simp)

/-- Every exception of an instruction is one of its checks, of its access or of its numeric step. -/
theorem exec_raised {i : Instr} {s left : State} {e : Exc} {code : Option (BitVec 32)}
    (h : exec i s = .fault (.exception e code left)) : Raised i s e code left := by
  cases hav : available i s with
  | false =>
    obtain ⟨x, hx, hr⟩ := exec_of_unavailable hav
    obtain ⟨rfl, rfl, rfl⟩ := Fault.exception.inj (Host.Outcome.fault.inj (hr.symm.trans h))
    exact .check hx
  | true =>
    obtain ⟨finish, hphases⟩ := exec_hasPhases hav
    rw [hphases] at h
    obtain hacc | ⟨ps, -, h⟩ := andThen_eq_fault.1 h
    · exact raised_of_accessOutcome hacc
    · obtain hnum | ⟨u, -, h⟩ := andThen_eq_fault.1 h
      · exact raised_of_numericStep hnum
      · cases h

/-! ## The state an exception leaves (R189) -/

/-- The upper 26 bits of MXCSR are not among the six that a numeric condition leaves open. -/
theorem withFreeFlags_mxcsr_upper (s : State) :
    (withFreeFlags s).mxcsr.extractLsb' 6 26 = s.mxcsr.extractLsb' 6 26 := by
  refine BitVec.eq_of_getLsbD_eq fun k hk => ?_
  have hbit :=
    BitVec.getLsbD_append (x := s.mxcsr.extractLsb' 6 26) (y := Config.mxcsrFlagsOnFault s.freeIdx) (i := 6 + k)
  simpa [withFreeFlags, hk] using hbit

/-- The state left is that before the instruction with the STI delay cleared, but for CR2 after #PF, six flags of MXCSR
after a numeric condition, and the count of free values drawn. -/
theorem Raised.left_eq {i : Instr} {s left : State} {e : Exc} {code : Option (BitVec 32)} (h : Raised i s e code left) :
    ∃ cr2 mxcsr draws, left = faulted { s with cr2 := cr2, mxcsr := mxcsr, freeIdx := draws } ∧
      (e ≠ .pf → cr2 = s.cr2) ∧ mxcsr.extractLsb' 6 26 = s.mxcsr.extractLsb' 6 26 ∧
      ((laneFlags i s).all (masked s) = true → mxcsr = s.mxcsr) := by
  cases h with
  | check | access => exact ⟨s.cr2, s.mxcsr, s.freeIdx, rfl, fun _ => rfl, rfl, fun _ => rfl⟩
  | page _ x => exact ⟨x, s.mxcsr, s.freeIdx, rfl, fun h => absurd rfl h, rfl, fun _ => rfl⟩
  | numeric hlanes =>
    refine ⟨s.cr2, (withFreeFlags s).mxcsr, s.freeIdx + 1, rfl, fun _ => rfl, withFreeFlags_mxcsr_upper s, fun hm => ?_⟩
    rw [hlanes] at hm
    cases hm

/-- Settles O46: the state left differs from the one before only where `Raised.left_eq` says. -/
theorem exceptionsArePrecise : Obligations.ExceptionsArePrecise := by
  intro i s left e code h
  obtain ⟨cr2, mxcsr, draws, rfl, hcr2, hupper, hmasked⟩ := (exec_raised h).left_eq
  refine ⟨fun _ => rfl, fun _ => rfl, rfl, rfl, rfl, rfl, rfl, ?constants, hcr2, hupper, hmasked⟩
  case constants => simp [sameConstants]

/-- No check made before an operand is read raises #PF. -/
theorem ne_pf_of_mem_checkExcs {i : Instr} {e : Exc} (h : e ∈ checkExcs i) : e ≠ .pf := by
  rintro rfl
  cases i <;> simp [checkExcs] at h

/-- Settles O48: the four ways to raise have the code 0 but for a page fault. -/
theorem errorCodes : Obligations.ErrorCodes := by
  intro i s left e code h
  have hr := exec_raised h
  change HasErrorCode s e code
  cases hr with
  | check he => exact hasErrorCode_zero (ne_pf_of_mem_checkExcs he)
  | access _ he => exact hasErrorCode_zero he.ne_pf
  | page _ _ c => exact hasErrorCode_pf s c
  | numeric _ he => exact hasErrorCode_zero (by obtain rfl | rfl := he <;> nofun)

/-! ## The table (R186) -/

/-- The exceptions of the checks are in the row of the instruction. -/
theorem mem_canRaise_of_checkExcs {i : Instr} {e : Exc} (h : e ∈ checkExcs i) : e ∈ canRaise i := by
  cases i with
  | stc | std | sti => exact h
  | stmxcsr | vstmxcsr | stosM8 | stosM16 | stosM32 | stosM64 | stosb | stosw | stosd | stosq =>
    exact List.mem_append_left _ h
  | smswRm16 _ rm | smswR32M16 _ rm | smswR64M16 _ rm | str _ rm | sqrtpd _ _ rm | vsqrtpdXmm _ _ rm
  | vsqrtpdYmm _ _ rm | sqrtps _ _ rm | vsqrtpsXmm _ _ rm | vsqrtpsYmm _ _ rm | sqrtsd _ _ rm | vsqrtsd _ _ rm
  | sqrtss _ _ rm | vsqrtss _ _ rm => cases rm <;> exact List.mem_append_left _ h

/-- The exceptions of the access are in the row of the instruction. -/
theorem canRaise_of_memAccess {i : Instr} {s : State} {a : MemAccess} (hacc : memAccess i s = some a) :
    .pf ∈ canRaise i ∧ ∀ e, AccessExc a e → e ∈ canRaise i := by
  cases i with
  | stc | std | sti => cases hacc
  | sqrtpd | vsqrtpdXmm | vsqrtpdYmm | sqrtps | vsqrtpsXmm | vsqrtpsYmm =>
    obtain ⟨m, rfl, rfl⟩ := rmAccess_eq_some.1 hacc
    refine ⟨by simp [canRaise], ?_⟩
    rintro e (rfl | ⟨rfl, -⟩ | ⟨rfl, hsize⟩)
    · simp [canRaise]
    · simp [canRaise]
    · simp at hsize
  | stosM8 | stosb =>
    obtain rfl := Option.some.inj hacc
    refine ⟨by simp [canRaise], ?_⟩
    rintro e (rfl | ⟨rfl, hseg⟩ | ⟨rfl, hsize⟩)
    · simp [canRaise]
    · cases hseg
    · simp at hsize
  | stosM16 | stosM32 | stosM64 | stosw | stosd | stosq =>
    obtain rfl := Option.some.inj hacc
    refine ⟨by simp [canRaise], ?_⟩
    rintro e (rfl | ⟨rfl, hseg⟩ | ⟨rfl, -⟩)
    · simp [canRaise]
    · cases hseg
    · simp [canRaise]
  | stmxcsr | vstmxcsr =>
    refine ⟨by simp [canRaise], ?_⟩
    rintro e (rfl | ⟨rfl, -⟩ | ⟨rfl, -⟩) <;> simp [canRaise]
  | smswRm16 | smswR32M16 | smswR64M16 | str | sqrtsd | vsqrtsd | sqrtss | vsqrtss =>
    obtain ⟨m, rfl, -⟩ := rmAccess_eq_some.1 hacc
    refine ⟨by simp [canRaise], ?_⟩
    rintro e (rfl | ⟨rfl, -⟩ | ⟨rfl, -⟩) <;> simp [canRaise]

/-- The rows with lanes list #XM. -/
theorem xm_mem_canRaise {i : Instr} {s : State} (hlanes : laneFlags i s ≠ []) : .xm ∈ canRaise i := by
  cases i with
  | sqrtpd _ _ rm | vsqrtpdXmm _ _ rm | vsqrtpdYmm _ _ rm | sqrtps _ _ rm | vsqrtpsXmm _ _ rm | vsqrtpsYmm _ _ rm
  | sqrtsd _ _ rm | vsqrtsd _ _ rm | sqrtss _ _ rm | vsqrtss _ _ rm => cases rm <;> simp [canRaise]
  | _ => exact absurd rfl hlanes

/-- Settles O47: the checks, the access and the numeric step raise only what the row lists. -/
theorem onlyListedExceptions : Obligations.OnlyListedExceptions := by
  intro i s left e code h
  cases exec_raised h with
  | check he => exact mem_canRaise_of_checkExcs he
  | access hacc he => exact (canRaise_of_memAccess hacc).2 e he
  | page hacc => exact (canRaise_of_memAccess hacc).1
  | numeric hlanes he =>
    obtain rfl | rfl := he
    · exact xm_mem_canRaise (s := s) fun hnil => by simp [hnil] at hlanes
    · exact mem_canRaise_of_checkExcs (ud_mem_checkExcs i)

end Sys2Proof.Machine
end

section
/-! PROOFS. The events of an instruction boundary (60_exceptions.md R195 to R198, 42_flag_set.md R153). -/

namespace Sys2Proof.Machine

/-! ## Recognised or held (R195, R197) -/

/-- An NMI is recognised when it is pending and not held back. -/
theorem nmi_mem_recognised {s : State} :
    .nmi ∈ recognised s ↔ (pendingNow s).nmi = true ∧ nmiHeld s = false := by simp [recognised]

/-- An SMI is recognised when it is pending and not held back. -/
theorem smi_mem_recognised {s : State} :
    .smi ∈ recognised s ↔ (pendingNow s).smi = true ∧ smiHeld s = false := by simp [recognised]

/-- Only the boundary right after an STI holds an NMI back. -/
theorem afterSti_of_nmiHeld {s : State} (h : nmiHeld s = true) : s.afterSti = true := by
  simp only [nmiHeld, Bool.and_eq_true] at h
  exact h.1.2

/-- Only the boundary right after an STI holds an SMI back. -/
theorem afterSti_of_smiHeld {s : State} (h : smiHeld s = true) : s.afterSti = true := by
  simp only [smiHeld, Bool.and_eq_true] at h
  exact h.1.2

/-- Carrying what is held back makes it pending first, besides what arrives there. -/
theorem headD_carryHeld (nmi smi : Bool) (later : List Pending) :
    (carryHeld nmi smi later).headD ⟨false, false, false⟩ =
      ⟨(later.headD ⟨false, false, false⟩).ext, (later.headD ⟨false, false, false⟩).nmi || nmi,
        (later.headD ⟨false, false, false⟩).smi || smi⟩ := by
  unfold carryHeld
  split
  next => cases later with
    | nil => simp
    | cons q r => rfl
  next hnone =>
    obtain ⟨rfl, rfl⟩ : nmi = false ∧ smi = false := by simpa using hnone
    simp

/-- What is held back at a boundary is pending at the next one. -/
theorem pendingNow_passBoundary (s : State) :
    pendingNow (passBoundary s) =
      ⟨(s.inputs.tail.headD ⟨false, false, false⟩).ext, (s.inputs.tail.headD ⟨false, false, false⟩).nmi || nmiHeld s,
        (s.inputs.tail.headD ⟨false, false, false⟩).smi || smiHeld s⟩ :=
  headD_carryHeld (nmiHeld s) (smiHeld s) s.inputs.tail

/-- A pending NMI is recognised, or held back after an STI and then pending at the next boundary. -/
theorem nmi_recognised_or_held {s : State} (h : (pendingNow s).nmi = true) :
    .nmi ∈ recognised s ∨ (s.afterSti = true ∧ (pendingNow (passBoundary s)).nmi = true) := by
  cases hheld : nmiHeld s with
  | false => exact .inl (nmi_mem_recognised.2 ⟨h, hheld⟩)
  | true => exact .inr ⟨afterSti_of_nmiHeld hheld, by rw [pendingNow_passBoundary, hheld, Bool.or_true]⟩

/-- A pending SMI is recognised, or held back after an STI and then pending at the next boundary. -/
theorem smi_recognised_or_held {s : State} (h : (pendingNow s).smi = true) :
    .smi ∈ recognised s ∨ (s.afterSti = true ∧ (pendingNow (passBoundary s)).smi = true) := by
  cases hheld : smiHeld s with
  | false => exact .inl (smi_mem_recognised.2 ⟨h, hheld⟩)
  | true => exact .inr ⟨afterSti_of_smiHeld hheld, by rw [pendingNow_passBoundary, hheld, Bool.or_true]⟩

/-! ## Taken (R198) -/

/-- A step at a boundary where an event is taken ends the run with the event's kind. -/
theorem step_of_takenEvent {s : State} {k : IntKind} (hend : atEnd s = false) (h : takenEvent s = some k) :
    step s = .fault (.interrupted k s) := by
  rw [step, nextInstr, hend, h]
  rfl

/-- Where events are recognised, a step takes one of them. -/
theorem step_of_recognised {s : State} (hend : atEnd s = false) (h : recognised s ≠ []) :
    ∃ k ∈ recognised s, step s = .fault (.interrupted k s) := by
  obtain ⟨j, hj⟩ := List.exists_mem_of_ne_nil _ h
  obtain ⟨k, hk⟩ := Option.ne_none_iff_exists'.1 (takenEvent_ne_none hj)
  exact ⟨k, mem_recognised_of_takenEvent hk, step_of_takenEvent hend hk⟩

/-- Settles O58: recognition event by event, and the event that the step takes. -/
theorem eventsAtBoundary : Obligations.EventsAtBoundary := fun _ hend =>
  ⟨external_mem_recognised, fun h => (nmi_mem_recognised.1 h).1, fun h => (smi_mem_recognised.1 h).1,
    nmi_recognised_or_held, smi_recognised_or_held, step_of_recognised hend⟩

end Sys2Proof.Machine
end
